-- ==== Sys2Proof/Word.lean ====
section
/-! DEFINITION. The widths of the unit's data (R4, R7): bytes, sextets, raw groups, encoded blocks. -/

namespace Sys2Proof

/-- A raw byte or an encoded character, 8 bits (R4 `BYTE`). -/
abbrev Byte := BitVec 8

/-- A sextet, 6 bits (R4 `SEXTET`). -/
abbrev Sextet := BitVec 6

/-- A raw group, 24 bits (R4 `GROUP`, R61). -/
abbrev Group := BitVec 24

/-- An encoded block, 32 bits (R4 `BLOCK`, R65). -/
abbrev Block := BitVec 32

end Sys2Proof
end

