-- ==== Sys2Proof/Config.lean ====
section
/-! DEFINITION. What is fixed when a unit is built (R4: AW, LW, HOOK_MODE) and the free values the spec leaves open. -/

namespace Sys2Proof

/-- `HOOK_MODE` (R4, R29): what the host's failure hook does. -/
inductive HookMode where
  /-- the hook halts the unit (R168) -/
  | production
  /-- the hook intercepts and the unit goes idle (R169) -/
  | test
  deriving DecidableEq, Repr

/-- The OPEN parameters of R4. Configuration, not state (R10, R29): no step changes them. -/
structure UnitConfig where
  /-- `AW`, the width of an address in bits -/
  aw : Nat
  /-- `LW`, the width of a length or capacity in bits -/
  lw : Nat
  /-- `HOOK_MODE` -/
  mode : HookMode
  deriving DecidableEq, Repr

/-- The values R4 suggests for the widths; `TEST` is the mode of the spec's vectors.
DESIGN CHOICE (log entries 1 and 2): unsafe for claims about `State.reset` alone, safe for claims about every state. -/
def UnitConfig.suggested : UnitConfig := { aw := 32, lw := 32, mode := .test }

/-- The free byte number `n`: what a byte holds that the spec says holds any value (R43 `MemHavoc`, R114).
DESIGN CHOICE (log entry 7): safe, since nothing can be proved of its value. -/
opaque Config.freeByte : Nat → Byte

/-- The free number `n`: what a register holds or a read returns that the spec says is any value (R33, R167), and what
a register holds that was written with a value it has no room for, of which the spec states nothing. It is cut to the
register's width where it is used. DESIGN CHOICE (log entries 7 and 10): safe. -/
opaque Config.freeNat : Nat → Nat

end Sys2Proof
end

