-- ==== Sys2Proof/Syntax.lean ====
section
/-! DEFINITION. The four commands (R74) and the actions of the host (R78, R200, R201). -/

namespace Sys2Proof

/-- A command word, decoded (R73, R74): the operation and the bit LENV, which a write of CTRL latches for every
operation (R12) although only ENC and DEC look at it. The reserved bits CTRL[7:3] have no effect (R75). -/
inductive Instr where
  /-- ENCB, the document's `EncodeBlock` (R92) -/
  | encb (lenv : Bool)
  /-- DECB, the document's `DecodeBlock` (R113) -/
  | decb (lenv : Bool)
  /-- ENC, the document's `Encode` (R132 to R135) -/
  | enc (lenv : Bool)
  /-- DEC, the document's `Decode` (R136 to R139) -/
  | dec (lenv : Bool)
  deriving DecidableEq, Repr

/-- One action of the host, or of any other agent that reaches the memory (R78, R200, R201). -/
inductive HostAction where
  /-- `WR r, v`: write value `v` to register number `r` -/
  | wr (r v : Nat)
  /-- `RD r`: read register number `r` -/
  | rd (r : Nat)
  /-- `WAIT`: repeat `RD 6` until `STATUS.BUSY = 0` -/
  | wait
  /-- read the byte at address `a` -/
  | memRd (a : Nat)
  /-- write the byte `b` at address `a` -/
  | memWr (a : Nat) (b : Byte)
  /-- the host does nothing; the unit takes its enabled step, if it has one -/
  | pass
  /-- reset the unit (R190, R191) -/
  | reset
  deriving DecidableEq, Repr

/-- `ENCB src, len, dst, cap` (R78). -/
def callEncb (src len dst cap : Nat) : List HostAction :=
  [.wr 1 src, .wr 2 len, .wr 3 dst, .wr 4 cap, .wr 0 0x00]

/-- `DECB src, dst, cap` (R78). -/
def callDecb (src dst cap : Nat) : List HostAction :=
  [.wr 1 src, .wr 3 dst, .wr 4 cap, .wr 0 0x01]

/-- `ENC src, len, dst, cap` (R78). -/
def callEnc (src len dst cap : Nat) : List HostAction :=
  [.wr 1 src, .wr 2 len, .wr 3 dst, .wr 4 cap, .wr 0 0x06]

/-- `ENC.NL src, len, dst, cap` (R78). -/
def callEncNl (src len dst cap : Nat) : List HostAction :=
  [.wr 1 src, .wr 2 len, .wr 3 dst, .wr 4 cap, .wr 0 0x02]

/-- `DEC src, len, dst, cap` (R78). -/
def callDec (src len dst cap : Nat) : List HostAction :=
  [.wr 1 src, .wr 2 len, .wr 3 dst, .wr 4 cap, .wr 0 0x07]

/-- `DEC.NL src, len, dst, cap` (R78). -/
def callDecNl (src len dst cap : Nat) : List HostAction :=
  [.wr 1 src, .wr 2 len, .wr 3 dst, .wr 4 cap, .wr 0 0x03]

end Sys2Proof
end

