-- ==== Sys2Proof/WellFormed.lean ====
section
/-! DEFINITION. Which configurations and instructions are well formed. -/

namespace Sys2Proof

/-- The bounds R4 puts on the widths: `AW >= 4` and `LW >= 3`. -/
def UnitConfig.wf (c : UnitConfig) : Bool := decide (4 ≤ c.aw) && decide (3 ≤ c.lw)

/-- Every command is well formed: all four values of OP are used and no command word is illegal (R75). -/
def Instr.wf : Instr → Bool
  | .encb _ => true
  | .decb _ => true
  | .enc _ => true
  | .dec _ => true

end Sys2Proof
end

