-- ==== Sys2Proof/Decode.lean ====
section
/-! DEFINITION. The decoder of command words (R73, R74, R77), and the encoder. -/

namespace Sys2Proof

/-- Why no instruction could be read. No byte is illegal (R75), so the absence of a byte is the only reason. -/
inductive Reject where
  /-- there is no byte to decode -/
  | noWord
  deriving DecidableEq, Repr

/-- `CTRL[1:0]` = OP (R73). -/
def ctrlOp (w : Byte) : BitVec 2 := w.extractLsb' 0 2

/-- `CTRL[2]` = LENV (R73). -/
def ctrlLenv (w : Byte) : Bool := w.getLsbD 2

/-- The command an 8-bit value written to CTRL selects (R74, R77). -/
def decodeByte (w : Byte) : Instr :=
  if ctrlOp w = 0#2 then .encb (ctrlLenv w)
  else if ctrlOp w = 1#2 then .decb (ctrlLenv w)
  else if ctrlOp w = 2#2 then .enc (ctrlLenv w)
  else .dec (ctrlLenv w)

/-- Read one command from the front of a list of bytes (R77: one byte, no second word). -/
def decode : List Byte → Except Reject (Instr × List Byte)
  | [] => .error .noWord
  | w :: rest => .ok (decodeByte w, rest)

/-- The value of OP that selects a command (R74). -/
def Instr.opcode : Instr → BitVec 2
  | .encb _ => 0#2
  | .decb _ => 1#2
  | .enc _ => 2#2
  | .dec _ => 3#2

/-- The LENV bit of a command (R73). -/
def Instr.lenv : Instr → Bool
  | .encb l => l
  | .decb l => l
  | .enc l => l
  | .dec l => l

/-- The command word with the reserved bits 0 (R73). -/
def ctrlWord (op : BitVec 2) (lenv : Bool) : Byte := 0#5 ++ BitVec.ofBool lenv ++ op

/-- The word of a command (R73, R74), the reserved bits 0. -/
def encodeByte (i : Instr) : Byte := ctrlWord i.opcode i.lenv

/-- The bytes of a command: one. -/
def encode (i : Instr) : List Byte := [encodeByte i]

/-- The instruction whose bits are `w`, numbered as spec/opcode_table.json numbers them: one byte, the bits at and
above `nbits` zero. -/
def decodeTableWord (nbits w : Nat) : Option Instr :=
  match decode [BitVec.ofNat 8 (w % 2 ^ nbits)] with
  | .ok (i, _) => some i
  | .error _ => none

end Sys2Proof
end

