-- ==== Sys2Proof/Machine/State.lean ====
section
/-! DEFINITION. The state of one unit, its memory and its host (R10), why a step can stop, and the state after reset (R33). -/

namespace Sys2Proof.Machine

/-- The four kinds of contract violation (R161). -/
inductive Kind where
  /-- a required pointer is absent (R162) -/
  | nullArg
  /-- the output capacity is too small (R163) -/
  | capacity
  /-- the encoded input is malformed (R164) -/
  | malformed
  /-- the block encoder's length is not 1 to 3 (R165) -/
  | degenerate
  deriving DecidableEq, Repr

/-- A register that may hold no value (R31, R33). `held` is false until the register is first written after reset;
`val` is then a value nothing may rest on (log entry 3, DESIGN CHOICE, unsafe). -/
structure Reg where
  val : Nat
  held : Bool
  deriving DecidableEq, Repr

/-- The source and destination windows of a command (R41), as base and length. -/
structure Lease where
  src : Nat
  srcLen : Nat
  dst : Nat
  dstLen : Nat
  deriving DecidableEq, Repr

/-- Why the machine is stuck. -/
inductive Fault where
  /-- raised by a turn of the unit when HALT = 1 and no host action is left: the halted unit performs no step and only
  reset leaves the halt (R22, R168). Safe. -/
  | halted
  /-- raised by an access to an address at or above 2^AW, which does not exist (R40): by a host memory access, and by a
  block or finish step in a state no run reaches. Safe. -/
  | noSuchAddress
  /-- raised by a turn of the unit when BUSY = 1 and no step of R130 is enabled (OP is not ENC or DEC, or RPOS > LEN): no
  run reaches such a state. Safe. -/
  | noEnabledStep
  deriving DecidableEq, Repr

/-- Why a run has no meaning in the spec. -/
inductive Refusal where
  /-- raised by an arm of `exec` whose instruction has no meaning yet. Safe. -/
  | notModelled (mnemonic : String)
  /-- raised by the issue of a command that reads an operand register holding no value (R31, R58 (a), U12). Safe. -/
  | operandUnset
  /-- raised by the issue of a command whose source or destination window passes 2^AW (R58 (b), U6). Safe. -/
  | windowWraps
  /-- raised by the issue of a command whose windows share an address (R58 (c), R195, U7). Safe. -/
  | windowsOverlap
  /-- raised by a memory access of another agent to the windows of a command whose end the host has not yet read
  (R58 (d), R194, U8). Safe. -/
  | windowShared
  deriving DecidableEq, Repr

/-- The state: one unit's registers and counters, the buffer memory (R10), the unit's configuration, and the model's
own bookkeeping of the host. -/
structure State where
  /-- AW, LW, HOOK_MODE (R4): configuration, changed by no step (R29) -/
  cfg : UnitConfig
  /-- CTRL.OP as latched (R12) -/
  op : BitVec 2
  /-- CTRL.LENV as latched (R12) -/
  lenv : Bool
  /-- SRC, register 1, `AW` bits (R13) -/
  src : Reg
  /-- LEN, register 2, `LW` bits (R14) -/
  len : Reg
  /-- DST, register 3, `AW` bits (R15) -/
  dst : Reg
  /-- CAP, register 4, `LW` bits (R16) -/
  cap : Reg
  /-- RLEN, register 5, `LW` bits (R17) -/
  rlen : Reg
  /-- STATUS.BUSY (R19) -/
  busy : Bool
  /-- STATUS.DONE (R20) -/
  done : Bool
  /-- STATUS.VIOL, sticky (R21) -/
  viol : Bool
  /-- STATUS.HALT, sticky (R22) -/
  halt : Bool
  /-- STATUS.CAUSE (R23): none is code 0, no violation since reset -/
  cause : Option Kind
  /-- RPOS (R24): source bytes consumed -/
  rpos : Nat
  /-- WPOS (R25): destination bytes produced -/
  wpos : Nat
  /-- the buffer memory (R40): addresses strictly rising, no entry equal to what an unlisted address reads as -/
  mem : List Host.Cell
  /-- the model's own: the host actions still to come (R201) -/
  inbox : List HostAction
  /-- the model's own: what the host's latest read returned -/
  rdata : Nat
  /-- the model's own: the windows of every command issued since the host last read BUSY = 0, the newest first; other
  agents must keep off them until the host reads it (R194, log entry 9) -/
  leases : List Lease
  /-- the model's own: how many commands the host has issued since reset (R201, log entry 20) -/
  issued : Nat
  /-- the model's own: how many commands have completed without a violation since reset (R20, R201,
  log entry 20) -/
  completed : Nat
  /-- the model's own: how often the failure hook has been invoked (R167, R176) -/
  hookCalls : Nat
  /-- the model's own: the number of the next free value -/
  free : Nat
  deriving DecidableEq, Repr

/-- A register that holds no value (R33); the 0 is DESIGN CHOICE (log entry 3), unsafe. -/
def Reg.noValue : Reg := { val := 0, held := false }

/-- The state after reset of a unit built with configuration `c` (R33, R190), with no byte of memory listed and no host
action to come. -/
def State.resetWith (c : UnitConfig) : State where
  cfg := c
  op := 0#2
  lenv := false
  src := .noValue
  len := .noValue
  dst := .noValue
  cap := .noValue
  rlen := .noValue
  busy := false
  done := false
  viol := false
  halt := false
  cause := none
  rpos := 0
  wpos := 0
  mem := []
  inbox := []
  rdata := 0
  leases := []
  issued := 0
  completed := 0
  hookCalls := 0
  free := 0

/-- The machine right after reset (R33), with the widths R4 suggests. -/
def State.reset : State := State.resetWith .suggested

end Sys2Proof.Machine
end

