-- ==== Sys2Proof/Machine/Ops.lean ====
section
/-! DEFINITION. The buffer memory's access primitives (R43), and the operations on the state that the commands share:
latching a command, entering a contract violation (R167), starting, advancing and completing a stream. -/

namespace Sys2Proof.Machine

/-! ### The buffer memory -/

/-- `NULL` (R42). -/
abbrev nullAddr : Nat := 0

/-- What a byte of memory that nothing has written reads as. The spec gives no contents; DESIGN CHOICE (log entry 6),
unsafe. -/
abbrev unlistedByte : Byte := 0x00#8

/-- The byte at address `a` (R40, R47). -/
def Memory.readByte : List Host.Cell → Nat → Byte
  | [], _ => unlistedByte
  | (k, v) :: m, a => if a = k then v else Memory.readByte m a

/-- Store `b` at address `a` (R47), keeping the canonical form. -/
def Memory.writeByte : List Host.Cell → Nat → Byte → List Host.Cell
  | [], a, b => if b = unlistedByte then [] else [(a, b)]
  | (k, v) :: m, a, b =>
    if a < k then (if b = unlistedByte then (k, v) :: m else (a, b) :: (k, v) :: m)
    else if a = k then (if b = unlistedByte then m else (a, b) :: m)
    else (k, v) :: Memory.writeByte m a b

/-- The canonical form: addresses strictly rising, no entry equal to what an unlisted address reads as. -/
def Memory.wf : List Host.Cell → Bool
  | [] => true
  | (k, v) :: m => decide (v ≠ unlistedByte) && (m.all fun c => decide (k < c.1)) && Memory.wf m

/-- `MemRead(a, n)` (R43): the `n` bytes from address `a` up, lowest address first. -/
def Memory.read (m : List Host.Cell) (a : Nat) : Nat → List Byte
  | 0 => []
  | n + 1 => Memory.readByte m a :: Memory.read m (a + 1) n

/-- `MemWrite(a, [b0, ..., b(n-1)])` (R43): byte `bi` goes to address `a + i`. -/
def Memory.write (m : List Host.Cell) (a : Nat) : List Byte → List Host.Cell
  | [] => m
  | b :: bs => Memory.write (Memory.writeByte m a b) (a + 1) bs

/-- The free bytes number `k` to `k + n - 1` (log entry 7). -/
def freeBytes (k : Nat) : Nat → List Byte
  | 0 => []
  | n + 1 => Config.freeByte k :: freeBytes (k + 1) n

/-- `MemHavoc(a, n)` (R43): the `n` bytes from address `a` up hold any values, here the free bytes from number `k`. -/
def Memory.havoc (m : List Host.Cell) (a n k : Nat) : List Host.Cell :=
  Memory.write m a (freeBytes k n)

/-- The `n` addresses from `a` up exist: they lie below 2^AW (R40). -/
def UnitConfig.inSpace (c : UnitConfig) (a n : Nat) : Bool := decide (a + n ≤ 2 ^ c.aw)

/-! ### Operations on the state -/

/-- A register that holds the value `v`. -/
def Reg.holding (v : Nat) : Reg := { val := v, held := true }

/-- The write of CTRL that issues a command (R12, R20): OP and LENV are latched, DONE is cleared, and the host owes the
command's windows exclusivity from now on (R194). The windows of commands issued before, whose end the host has not yet
read, stay barred beside them: R194 ends that duty by a read of BUSY = 0 and by nothing else (log entry 9, DEDUCED). -/
def State.latch (s : State) (op : BitVec 2) (lenv : Bool) (w : Lease) : State :=
  { s with op := op, lenv := lenv, done := false, leases := w :: s.leases, issued := s.issued + 1 }

/-- `raise Violation(kind)` (R167): VIOL, CAUSE and BUSY, RLEN any value, HALT in PRODUCTION mode, the hook invoked.
DONE was cleared at issue. Nothing else changes, and no byte of memory. -/
def State.raise (s : State) (k : Kind) : State :=
  { s with
    viol := true
    cause := some k
    busy := false
    rlen := .holding (Config.freeNat s.free % 2 ^ s.cfg.lw)
    halt := s.halt || decide (s.cfg.mode = .production)
    hookCalls := s.hookCalls + 1
    free := s.free + 1 }

/-- The issue step of a stream command once its checks have passed (R132, R136). -/
def State.startStream (s : State) : State := { s with rpos := 0, wpos := 0, busy := true }

/-- `RPOS <- RPOS + r ; WPOS <- WPOS + w` (R24, R25). -/
def State.advance (s : State) (r w : Nat) : State := { s with rpos := s.rpos + r, wpos := s.wpos + w }

/-- `MemWrite` on the state's memory. -/
def State.store (s : State) (a : Nat) (bs : List Byte) : State := { s with mem := Memory.write s.mem a bs }

/-- `MemHavoc` on the state's memory, with fresh free bytes. -/
def State.havoc (s : State) (a n : Nat) : State :=
  { s with mem := Memory.havoc s.mem a n s.free, free := s.free + n }

/-- `RLEN <- n`. -/
def State.setRlen (s : State) (n : Nat) : State := { s with rlen := .holding n }

/-- Successful completion (R20): BUSY is 0 and DONE is 1, and the command counts as completed (R201). -/
def State.complete (s : State) : State := { s with busy := false, done := true, completed := s.completed + 1 }

/-- The kind of the first failing check of a list in the order of R166, if one fails. -/
def firstFailing : List (Bool × Kind) → Option Kind
  | [] => none
  | (fails, k) :: rest => if fails then some k else firstFailing rest

/-- Make the checks in order: the first that fails raises its violation and ends the command (R166), else `go`. -/
def State.checked (s : State) (checks : List (Bool × Kind)) (go : State → State) : State :=
  match firstFailing checks with
  | some k => s.raise k
  | none => go s

end Sys2Proof.Machine
end

