-- ==== Sys2Proof/Machine/Codec.lean ====
section
/-! DEFINITION. The two constant tables (R66 to R70) and the block functions enc24 (R90) and dec32 (R110). -/

namespace Sys2Proof.Machine

/-- An entry of the reverse table (R28, R68). -/
inductive RevEntry where
  /-- the index of an alphabet character -/
  | idx (i : Sextet)
  /-- the pad character -/
  | pad
  /-- no character of the text -/
  | invalid
  deriving DecidableEq, Repr

/-- The 7-bit code R68 suggests for an entry of REV; nothing depends on it. -/
def RevEntry.code : RevEntry → BitVec 7
  | .idx i => i.setWidth 7
  | .pad => 0x40#7
  | .invalid => 0x7F#7

/-- ALPHA (R66): A to Z, a to z, 0 to 9, `+`, `/`. -/
def alpha (i : Sextet) : Byte :=
  let n := i.toNat
  if n ≤ 25 then BitVec.ofNat 8 (0x41 + n)
  else if n ≤ 51 then BitVec.ofNat 8 (0x61 + (n - 26))
  else if n ≤ 61 then BitVec.ofNat 8 (0x30 + (n - 52))
  else if n = 62 then 0x2B#8
  else 0x2F#8

/-- `PAD`, the character `=` (R67). -/
abbrev padChar : Byte := 0x3D#8

/-- The null character that ends an encoded text (R80, R134). -/
abbrev terminator : Byte := 0x00#8

/-- REV (R68), by its ranges. -/
def rev (c : Byte) : RevEntry :=
  let n := c.toNat
  if n = 0x2B then .idx 62#6
  else if n = 0x2F then .idx 63#6
  else if n = 0x3D then .pad
  else if 0x30 ≤ n ∧ n ≤ 0x39 then .idx (BitVec.ofNat 6 (52 + (n - 0x30)))
  else if 0x41 ≤ n ∧ n ≤ 0x5A then .idx (BitVec.ofNat 6 (n - 0x41))
  else if 0x61 ≤ n ∧ n ≤ 0x7A then .idx (BitVec.ofNat 6 (26 + (n - 0x61)))
  else .invalid

/-- `MASK(n)` (R64). -/
def groupMask (n : Nat) : Group :=
  if n = 3 then 0xFFFFFF#24 else if n = 2 then 0xFFFF00#24 else 0xFF0000#24

/-- The raw group of up to three bytes (R61), first byte most significant; an absent byte gives 0x00 (R92). -/
def rawGroup (bs : List Byte) : Group := bs.getD 0 0x00#8 ++ bs.getD 1 0x00#8 ++ bs.getD 2 0x00#8

/-- The encoded block of four characters (R65), first character most significant. -/
def encBlock (cs : List Byte) : Block :=
  cs.getD 0 0x00#8 ++ cs.getD 1 0x00#8 ++ cs.getD 2 0x00#8 ++ cs.getD 3 0x00#8

/-- The characters C0 to C3 of a block in the order of the buffer (R44, R65). -/
def blockChars (q : Block) : List Byte :=
  [q.extractLsb' 24 8, q.extractLsb' 16 8, q.extractLsb' 8 8, q.extractLsb' 0 8]

/-- `enc24(d, n)` (R90), for a group of `n` meaningful bytes, `n` 1, 2 or 3. No caller passes another `n` (log entry 13). -/
def enc24 (d : Group) (n : Nat) : Block :=
  let m := d &&& groupMask n
  let c0 := alpha (m.extractLsb' 18 6)
  let c1 := alpha (m.extractLsb' 12 6)
  let c2 := if 2 ≤ n then alpha (m.extractLsb' 6 6) else padChar
  let c3 := if n = 3 then alpha (m.extractLsb' 0 6) else padChar
  c0 ++ c1 ++ c2 ++ c3

/-- The 24-bit value of four sextets (R72). -/
def joinSextets (t0 t1 t2 t3 : Sextet) : Group := t0 ++ t1 ++ t2 ++ t3

/-- The bytes B0, B1, B2 of a 24-bit value (R61, R72). -/
def groupBytes (v : Group) : List Byte :=
  [v.extractLsb' 16 8, v.extractLsb' 8 8, v.extractLsb' 0 8]

/-- `dec32(q)` (R110): the meaningful bytes and their count, or none for `Malformed`. -/
def dec32 (q : Block) : Option (List Byte × Nat) :=
  match rev (q.extractLsb' 24 8), rev (q.extractLsb' 16 8), rev (q.extractLsb' 8 8), rev (q.extractLsb' 0 8) with
  | .idx a, .idx b, .idx c, .idx e => some ((groupBytes (joinSextets a b c e)).take 3, 3)
  | .idx a, .idx b, .idx c, .pad => some ((groupBytes (joinSextets a b c 0#6)).take 2, 2)
  | .idx a, .idx b, .pad, .pad => some ((groupBytes (joinSextets a b 0#6 0#6)).take 1, 1)
  | _, _, _, _ => none

end Sys2Proof.Machine
end

