-- ==== Sys2Proof/Machine/Operands.lean ====
section
/-! DEFINITION. The operands of a command: its windows (R41), when it is refused (R58), and its issue (R31). -/

namespace Sys2Proof.Machine

/-- The two windows share an address (R58 (c)); an empty window has none (R41). -/
def windowsMeet (a n b m : Nat) : Bool := decide (max a b < min (a + n) (b + m))

/-- The windows the operand registers name (R41), the source window of `nSrc` addresses. A NULL reference names no window
(R42). -/
def State.windows (s : State) (nSrc : Nat) : Lease where
  src := s.src.val
  srcLen := if s.src.val = nullAddr then 0 else nSrc
  dst := s.dst.val
  dstLen := if s.dst.val = nullAddr then 0 else s.cap.val

/-- Every operand register the command reads holds a value (R58 (a), R76): SRC, DST, CAP, and LEN when it is read. -/
def State.operandsHeld (s : State) (readsLen : Bool) : Bool :=
  s.src.held && s.dst.held && s.cap.held && (!readsLen || s.len.held)

/-- No window passes the top of the address space (R58 (b)); a NULL reference names no window. -/
def State.windowsFit (s : State) (nSrc : Nat) : Bool :=
  (decide (s.src.val = nullAddr) || UnitConfig.inSpace s.cfg s.src.val nSrc) &&
    (decide (s.dst.val = nullAddr) || UnitConfig.inSpace s.cfg s.dst.val s.cap.val)

/-- The source and destination windows overlap (R58 (c)). -/
def State.windowsClash (s : State) (nSrc : Nat) : Bool :=
  decide (s.src.val ≠ nullAddr) && decide (s.dst.val ≠ nullAddr) &&
    windowsMeet s.src.val nSrc s.dst.val s.cap.val

/-- Why the issue of a command is refused, if it is (R58 (a) to (c)). -/
def State.issueRefusal (s : State) (readsLen : Bool) (nSrc : Nat) : Option Refusal :=
  if s.operandsHeld readsLen = false then some .operandUnset
  else if s.windowsFit nSrc = false then some .windowWraps
  else if s.windowsClash nSrc = true then some .windowsOverlap
  else none

/-- A host write of CTRL (R31): lost while BUSY or HALT is 1; refused where R58 gives the command no meaning; else OP and
LENV are latched, DONE is cleared, and the issue step `body` of the command is performed. -/
def issueCommand (op : BitVec 2) (lenv readsLen : Bool) (nSrc : Nat) (body : State → State) (s : State) :
    Host.Outcome State Fault Refusal :=
  if s.busy || s.halt then .next s
  else
    match s.issueRefusal readsLen nSrc with
    | some r => .refused r
    | none => .next (body (s.latch op lenv (s.windows nSrc)))

end Sys2Proof.Machine
end

