-- ==== Sys2Proof/Machine/Block.lean ====
section
/-! DEFINITION. The block commands ENCB (R92) and DECB (R113): one step each, at the write of CTRL. -/

namespace Sys2Proof.Machine

/-- The checks of ENCB in the order of R166. -/
def encbChecks (s : State) : List (Bool × Kind) :=
  [(decide (s.src.val = nullAddr), .nullArg),
   (decide (s.dst.val = nullAddr), .nullArg),
   (decide (s.len.val = 0), .degenerate),
   (decide (3 < s.len.val), .degenerate),
   (decide (s.cap.val < 4), .capacity)]

/-- The effect of ENCB once its checks have passed (R92): four characters at DST; RLEN, RPOS, WPOS untouched. -/
def encbEffect (s : State) : State :=
  let bs := Memory.read s.mem s.src.val s.len.val
  (s.store s.dst.val (blockChars (enc24 (rawGroup bs) s.len.val))).complete

/-- ENCB, the document's `EncodeBlock` (R92, R93). -/
def execEncb (lenv : Bool) (s : State) : Host.Outcome State Fault Refusal :=
  issueCommand 0#2 lenv true s.len.val (fun t => t.checked (encbChecks t) encbEffect) s

/-- The checks of DECB before its memory access, in the order of R166. -/
def decbChecks (s : State) : List (Bool × Kind) :=
  [(decide (s.src.val = nullAddr), .nullArg),
   (decide (s.dst.val = nullAddr), .nullArg),
   (decide (s.cap.val < 3), .capacity)]

/-- The effect of DECB once its argument checks have passed (R113): the block is read and decoded; a malformed one raises
`MALFORMED` with nothing written; else the `n` meaningful bytes go to DST, the `3 - n` after them hold any value (R114),
and RLEN is `n`. -/
def decbEffect (s : State) : State :=
  match dec32 (encBlock (Memory.read s.mem s.src.val 4)) with
  | none => s.raise .malformed
  | some (bs, n) => (((s.store s.dst.val bs).havoc (s.dst.val + n) (3 - n)).setRlen n).complete

/-- DECB, the document's `DecodeBlock` (R113 to R115). LEN is not read. -/
def execDecb (lenv : Bool) (s : State) : Host.Outcome State Fault Refusal :=
  issueCommand 1#2 lenv false 4 (fun t => t.checked (decbChecks t) decbEffect) s

end Sys2Proof.Machine
end

