-- ==== Sys2Proof/Machine/Stream.lean ====
section
/-! DEFINITION. The stream commands ENC (R131 to R134) and DEC (R136 to R138): their issue steps, and the block and finish
steps the unit takes while BUSY is 1 (R130). -/

namespace Sys2Proof.Machine

/-- `ceil(L / 3)`: the blocks of an input of `L` bytes (R80). -/
def encBlocks (l : Nat) : Nat := (l + 2) / 3

/-- `ReqEnc(L) = 4 * ceil(L / 3) + 1`, on natural numbers (R131, R34). -/
def reqEnc (l : Nat) : Nat := 4 * encBlocks l + 1

/-! ### Issue steps -/

/-- The checks of ENC in the order of R166. -/
def encChecks (s : State) : List (Bool × Kind) :=
  [(decide (s.src.val = nullAddr), .nullArg),
   (decide (s.dst.val = nullAddr), .nullArg),
   (!s.lenv, .nullArg),
   (decide (s.cap.val < reqEnc s.len.val), .capacity)]

/-- ENC, the document's `Encode`: its issue step (R132). The steps that follow are `encBlockStep` and `encFinishStep`. -/
def execEnc (lenv : Bool) (s : State) : Host.Outcome State Fault Refusal :=
  issueCommand 2#2 lenv true s.len.val (fun t => t.checked (encChecks t) State.startStream) s

/-- The checks of DEC at issue in the order of R166. -/
def decChecks (s : State) : List (Bool × Kind) :=
  [(decide (s.src.val = nullAddr), .nullArg),
   (decide (s.dst.val = nullAddr), .nullArg),
   (!s.lenv, .nullArg),
   (decide (s.len.val % 4 ≠ 0), .malformed)]

/-- DEC, the document's `Decode`: its issue step (R136). The steps that follow are `decBlockStep` and `decFinishStep`. -/
def execDec (lenv : Bool) (s : State) : Host.Outcome State Fault Refusal :=
  issueCommand 3#2 lenv true s.len.val (fun t => t.checked (decChecks t) State.startStream) s

/-! ### Block and finish steps -/

/-- The size of the window the next ENC block step consumes (R133). -/
def State.encWindow (s : State) : Nat := min 3 (s.len.val - s.rpos)

/-- ENC, block step (R133). -/
def encBlockStep (s : State) : Host.Outcome State Fault Refusal :=
  if UnitConfig.inSpace s.cfg (s.src.val + s.rpos) s.encWindow && UnitConfig.inSpace s.cfg (s.dst.val + s.wpos) 4 then
    let bs := Memory.read s.mem (s.src.val + s.rpos) s.encWindow
    .next ((s.store (s.dst.val + s.wpos) (blockChars (enc24 (rawGroup bs) s.encWindow))).advance s.encWindow 4)
  else .fault .noSuchAddress

/-- ENC, finish step (R134): the terminator after the last character, WPOS to RLEN. -/
def encFinishStep (s : State) : Host.Outcome State Fault Refusal :=
  if UnitConfig.inSpace s.cfg (s.dst.val + s.wpos) 1 then
    .next (((s.store (s.dst.val + s.wpos) [terminator]).setRlen s.wpos).complete)
  else .fault .noSuchAddress

/-- A DEC block step after its capacity guard (R137, parts 2 to 4). -/
def decGroup (s : State) : State :=
  match dec32 (encBlock (Memory.read s.mem (s.src.val + s.rpos) 4)) with
  | none => s.raise .malformed
  | some (bs, n) =>
    if n < 3 ∧ s.rpos + 4 < s.len.val then s.raise .malformed
    else ((s.store (s.dst.val + s.wpos) bs).havoc (s.dst.val + s.wpos + n) (3 - n)).advance 4 n

/-- DEC, block step (R137). The capacity guard comes first and reads nothing. -/
def decBlockStep (s : State) : Host.Outcome State Fault Refusal :=
  if s.cap.val - s.wpos < 3 then .next (s.raise .capacity)
  else if UnitConfig.inSpace s.cfg (s.src.val + s.rpos) 4 && UnitConfig.inSpace s.cfg (s.dst.val + s.wpos) 3 then
    .next (decGroup s)
  else .fault .noSuchAddress

/-- DEC, finish step (R138): WPOS to RLEN, no terminator. -/
def decFinishStep (s : State) : Host.Outcome State Fault Refusal :=
  .next ((s.setRlen s.wpos).complete)

/-- The one step of a running stream command that is enabled (R130): chosen by OP and by whether RPOS < LEN. -/
def streamStep (s : State) : Host.Outcome State Fault Refusal :=
  if s.op = 2#2 ∧ s.rpos < s.len.val then encBlockStep s
  else if s.op = 2#2 ∧ s.rpos = s.len.val then encFinishStep s
  else if s.op = 3#2 ∧ s.rpos < s.len.val then decBlockStep s
  else if s.op = 3#2 ∧ s.rpos = s.len.val then decFinishStep s
  else .fault .noEnabledStep

/-- A turn of the unit: a halted unit is stuck (R22, R168), a busy one takes its enabled step (R130), an idle one keeps
all it holds (R181). -/
def unitTurn (s : State) : Host.Outcome State Fault Refusal :=
  if s.halt then .fault .halted
  else if s.busy then streamStep s
  else .next s

end Sys2Proof.Machine
end

