-- ==== Sys2Proof/Machine/Dispatch.lean ====
section
/-! DEFINITION. One arm per command: the meaning of its issue (R31, R74). -/

namespace Sys2Proof.Machine

def exec (i : Instr) (s : State) : Host.Outcome State Fault Refusal :=
  match i with
  | .encb lenv => Sys2Proof.Machine.execEncb lenv s
  | .decb lenv => Sys2Proof.Machine.execDecb lenv s
  | .enc lenv => Sys2Proof.Machine.execEnc lenv s
  | .dec lenv => Sys2Proof.Machine.execDec lenv s

end Sys2Proof.Machine
end

