-- ==== Sys2Proof/Machine/Flags.lean ====
section
/-! DEFINITION. The words a host reads at CTRL and STATUS (R12, R18), and the codes of CAUSE (R161). -/

namespace Sys2Proof.Machine

/-- The code of a violation kind in CAUSE (R161). -/
def Kind.code : Kind → BitVec 3
  | .nullArg => 1#3
  | .capacity => 2#3
  | .malformed => 3#3
  | .degenerate => 4#3

/-- The code of CAUSE (R23): 0 is NONE. -/
def causeCode : Option Kind → BitVec 3
  | none => 0#3
  | some k => k.code

/-- STATUS (R18): BUSY, DONE, VIOL, HALT in bits 0 to 3, CAUSE in bits 6:4, bit 7 reads 0. -/
def State.statusWord (s : State) : Byte :=
  0#1 ++ causeCode s.cause ++ BitVec.ofBool s.halt ++ BitVec.ofBool s.viol ++ BitVec.ofBool s.done ++
    BitVec.ofBool s.busy

/-- What a host read of CTRL returns (R12): the latched OP and LENV, bits 7:3 reading 0. -/
def State.ctrlReg (s : State) : Byte := ctrlWord s.op s.lenv

end Sys2Proof.Machine
end

