-- ==== Sys2Proof/Machine/HostPort.lean ====
section
/-! DEFINITION. The actions of the host on the unit and on the memory (R31, R32, R190, R194, R200), and whose turn it is. -/

namespace Sys2Proof.Machine

/-! ### Registers -/

/-- The width in bits of a register the host may write (R32), for numbers 0 to 4. -/
def regWidth (c : UnitConfig) : Nat → Option Nat
  | 0 => some 8
  | 1 => some c.aw
  | 2 => some c.lw
  | 3 => some c.aw
  | 4 => some c.lw
  | _ => none

/-- What a write of `v` puts into a register of `w` bits: `v`, or a free value of the width where `v` has no room in it
(DESIGN CHOICE, log entry 10: the spec states no result). -/
def State.written (s : State) (w v : Nat) : Nat :=
  if v < 2 ^ w then v else Config.freeNat s.free % 2 ^ w

/-- The state after the value of a write has been taken: a free value is used up where `written` drew one, and a write that
is lost (R197) draws none. -/
def State.drawn (s : State) (w v : Nat) : State :=
  if v < 2 ^ w ∨ s.busy = true ∨ s.halt = true then s else { s with free := s.free + 1 }

/-- The value stored by `WR r, v` for the operand registers, numbers 1 to 4 (R13 to R16). -/
def State.setOperand (s : State) (r v : Nat) : State :=
  match r with
  | 1 => { s with src := .holding v }
  | 2 => { s with len := .holding v }
  | 3 => { s with dst := .holding v }
  | 4 => { s with cap := .holding v }
  | _ => s

/-- `WR r, v` for a register other than CTRL (R31): taken only while BUSY = 0 and HALT = 0, and never by RLEN, STATUS or a
number that does not exist (R32). -/
def hostWrite (r v : Nat) (s : State) : State :=
  if s.busy || s.halt then s
  else
    match regWidth s.cfg r with
    | some w => (s.drawn w v).setOperand r (s.written w v)
    | none => s

/-- What a read of a register that may hold no value returns (R33): its value, or any value of its width. -/
def State.regRead (s : State) (x : Reg) (w : Nat) : Nat :=
  if x.held then x.val else Config.freeNat s.free % 2 ^ w

/-- What `RD r` returns (R31, R32). -/
def State.readReg (s : State) : Nat → Nat
  | 0 => s.ctrlReg.toNat
  | 1 => s.regRead s.src s.cfg.aw
  | 2 => s.regRead s.len s.cfg.lw
  | 3 => s.regRead s.dst s.cfg.aw
  | 4 => s.regRead s.cap s.cfg.lw
  | 5 => s.regRead s.rlen s.cfg.lw
  | 6 => s.statusWord.toNat
  | _ => 0

/-- `RD r` (R31): no effect on the unit or the memory. The host's read of BUSY = 0 ends its duty to keep off the windows
(R194). -/
def State.hostRead (s : State) (r : Nat) : State :=
  { s with
    rdata := s.readReg r
    free := s.free + 1
    leases := if r = 6 ∧ s.busy = false then [] else s.leases }

/-! ### Memory -/

/-- `a` lies in the window of `n` addresses at `base` (R41). -/
def inWindow (base n a : Nat) : Bool := decide (base ≤ a) && decide (a < base + n)

/-- Another agent may not read `a`: it lies in the destination window of a command whose end the host has not read
(R194). -/
def State.readBarred (s : State) (a : Nat) : Bool := s.leases.any fun w => inWindow w.dst w.dstLen a

/-- Another agent may not write `a`: it lies in one of the windows of a command whose end the host has not read (R194). -/
def State.writeBarred (s : State) (a : Nat) : Bool :=
  s.leases.any fun w => inWindow w.src w.srcLen a || inWindow w.dst w.dstLen a

/-- A read of the byte at `a` by the host or another agent (R200). -/
def hostMemRead (a : Nat) (s : State) : Host.Outcome State Fault Refusal :=
  if UnitConfig.inSpace s.cfg a 1 = false then .fault .noSuchAddress
  else if s.readBarred a then .refused .windowShared
  else .next { s with rdata := (Memory.readByte s.mem a).toNat }

/-- A write of the byte at `a` by the host or another agent (R200). -/
def hostMemWrite (a : Nat) (b : Byte) (s : State) : Host.Outcome State Fault Refusal :=
  if UnitConfig.inSpace s.cfg a 1 = false then .fault .noSuchAddress
  else if s.writeBarred a then .refused .windowShared
  else .next { s with mem := Memory.writeByte s.mem a b }

/-! ### Reset -/

/-- Reset of the unit (R33, R190, R191): an idle unit with no violation recorded; memory is not changed, and a running
command is abandoned. What belongs to the host and to the model stays, the host's duty to keep off the windows among it: R194
ends it by a read of BUSY = 0 alone (log entry 9, DEDUCED). -/
def State.resetUnit (s : State) : State :=
  { State.resetWith s.cfg with
    mem := s.mem, inbox := s.inbox, rdata := s.rdata, leases := s.leases, hookCalls := s.hookCalls, free := s.free }

/-! ### Whose turn it is -/

/-- A turn of the machine: the issue of a command, or an outcome already reached. -/
inductive Turn where
  /-- the host writes CTRL: the command `i` is issued in the state `s` -/
  | issue (i : Instr) (s : State)
  /-- every other action, and the unit's own turn -/
  | outcome (o : Host.Outcome State Fault Refusal)

/-- The turn the state's inbox calls for (log entry 8): the oldest host action, or the unit's own turn when there is none
left. `t` is the state with that action taken from the inbox. -/
def takeTurn (s : State) : Turn :=
  match s.inbox with
  | [] => .outcome (unitTurn s)
  | a :: rest =>
    let t := { s with inbox := rest }
    match a with
    | .wr r v =>
      if r = 0 then
        match decode [BitVec.ofNat 8 (s.written 8 v)] with
        | .ok (i, _) => .issue i (t.drawn 8 v)
        | .error _ => .outcome (.next t)
      else .outcome (.next (hostWrite r v t))
    | .rd r => .outcome (.next (t.hostRead r))
    | .wait => if s.busy then .outcome (unitTurn (s.hostRead 6)) else .outcome (.next (t.hostRead 6))
    | .memRd a => .outcome (hostMemRead a t)
    | .memWr a b => .outcome (hostMemWrite a b t)
    | .pass => if s.halt then .outcome (.next t) else .outcome (unitTurn t)
    | .reset => .outcome (.next t.resetUnit)

/-- Every operand register holds its value: the host has written them all (R192). -/
def State.operandsWritten (s : State) : State :=
  { s with
    src := .holding s.src.val, len := .holding s.len.val, dst := .holding s.dst.val, cap := .holding s.cap.val }

end Sys2Proof.Machine
end

