-- ==== Sys2Proof/Machine/Step.lean ====
section
/-! DEFINITION. One step of the machine: the host's next action, or the unit's own turn (log entry 8). -/

namespace Sys2Proof.Machine

/-- One step. A write of CTRL issues the command its value decodes to (R31, R77); everything else is `takeTurn`. -/
def step (s : State) : Host.Outcome State Fault Refusal :=
  match takeTurn s with
  | .issue i t => exec i t
  | .outcome o => o

/-- `s` with the command whose bits are `w` as the host's next action: a write of CTRL, in place of the host's calls that
came before it (R192: every operand register written, here with the value it has). -/
def State.withFetchWord (s : State) (nbits w : Nat) : State :=
  let t := s.operandsWritten
  { t with inbox := .wr 0 (w % 2 ^ nbits % 256) :: t.inbox }

end Sys2Proof.Machine
end

