-- ==== Sys2Proof/Safety.lean ====
section
/-! DEFINITION. The words claims are stated in: an idle unit, a command that has a meaning (R58), the end of a run (R201),
the encoded and decoded texts as functions of the input (R80, R81, R135, R139), and the invariant of the machine. -/

namespace Sys2Proof.Machine

/-- The unit takes host writes (R31): BUSY = 0 and HALT = 0. -/
def Idle (s : State) : Prop := s.busy = false ∧ s.halt = false

/-- The windows of `n` addresses at `a` and of `m` addresses at `b` share no address (R58 (c)). -/
def NoSharedAddress (a n b m : Nat) : Prop := ∀ x, ¬ ((a ≤ x ∧ x < a + n) ∧ (b ≤ x ∧ x < b + m))

/-- R58 (a) to (c) hold at the issue of a command that reads LEN or not and whose source window has `nSrc` addresses. -/
structure Meaningful (s : State) (readsLen : Bool) (nSrc : Nat) : Prop where
  /-- (a) SRC, DST and CAP hold a value -/
  held : s.src.held = true ∧ s.dst.held = true ∧ s.cap.held = true
  /-- (a) LEN holds a value when the command reads it -/
  lenHeld : readsLen = true → s.len.held = true
  /-- (b) the source window does not wrap -/
  srcFits : s.src.val ≠ 0 → s.src.val + nSrc ≤ 2 ^ s.cfg.aw
  /-- (b) the destination window does not wrap -/
  dstFits : s.dst.val ≠ 0 → s.dst.val + s.cap.val ≤ 2 ^ s.cfg.aw
  /-- (c) the windows share no address -/
  apart : s.src.val ≠ 0 → s.dst.val ≠ 0 → NoSharedAddress s.src.val nSrc s.dst.val s.cap.val

/-- A command reads LEN (R76): every command but DECB. -/
def readsLen : Instr → Bool
  | .encb _ => true
  | .decb _ => false
  | .enc _ => true
  | .dec _ => true

/-- The size `n_src` of a command's source window (R41): LEN, or 4 for DECB. -/
def srcSize (s : State) : Instr → Nat
  | .encb _ => s.len.val
  | .decb _ => 4
  | .enc _ => s.len.val
  | .dec _ => s.len.val

/-- The results of the latest command may be used (R196): BUSY = 0 and DONE = 1. -/
def ResultsValid (s : State) : Prop := s.busy = false ∧ s.done = true

/-- A run is over (R201): no host action is left and BUSY is 0. -/
def RunOver (s : State) : Prop := s.inbox = [] ∧ s.busy = false

/-- A run has ended well (R201): it is over, every command issued since reset has completed with DONE = 1 (none, if none was
issued), and VIOL is 0. -/
def EndedWell (s : State) : Prop := RunOver s ∧ s.completed = s.issued ∧ s.viol = false

/-- A run has ended badly (R201): it is over and VIOL is 1. -/
def EndedBadly (s : State) : Prop := RunOver s ∧ s.viol = true

/-! ### Texts -/

/-- The encoded text of a byte list (R80, R135), without the terminator. -/
def encText : List Byte → List Byte
  | [] => []
  | [a] => blockChars (enc24 (rawGroup [a]) 1)
  | [a, b] => blockChars (enc24 (rawGroup [a, b]) 2)
  | a :: b :: c :: rest => blockChars (enc24 (rawGroup [a, b, c]) 3) ++ encText rest

/-- What DEC does to a text with `room` bytes of capacity left (R139): the meaningful bytes of the groups before the first
that raises, and the kind it raises, if one does. -/
def decGroups (room : Nat) : List Byte → List Byte × Option Kind
  | [] => ([], none)
  | a :: b :: c :: d :: rest =>
    if room < 3 then ([], some .capacity)
    else
      match dec32 (encBlock [a, b, c, d]) with
      | none => ([], some .malformed)
      | some (bs, n) =>
        if n < 3 ∧ rest ≠ [] then ([], some .malformed)
        else (bs ++ (decGroups (room - 3) rest).1, (decGroups (room - 3) rest).2)
  | _ :: _ => ([], some .malformed)

/-- The bytes a text decodes to, if it is a legal text (R81). -/
def decText (cs : List Byte) : Option (List Byte) :=
  match decGroups cs.length cs with
  | (bs, none) => some bs
  | (_, some _) => none

/-- Every address outside the `n` addresses from `a` up reads the same byte in both memories. -/
def SameOutside (m m' : List Host.Cell) (a n : Nat) : Prop :=
  ∀ x, ¬ (a ≤ x ∧ x < a + n) → Memory.readByte m' x = Memory.readByte m x

/-- What a violation of kind `k` raised at the issue of command `i` in the idle state `s` leaves (R167, R170): the command
latched, DONE and BUSY 0, VIOL and CAUSE set, HALT exactly in PRODUCTION mode, the hook invoked once; RLEN any value; the
operand registers, the counters and the memory unchanged. The command's windows stay barred and it counts as issued (`leases`,
`issued`, `hookCalls` and `free` are the model's own). -/
def ViolatedAtIssue (s t : State) (i : Instr) (k : Kind) : Prop :=
  t = { s with
    op := i.opcode
    lenv := i.lenv
    done := false
    busy := false
    viol := true
    cause := some k
    halt := decide (s.cfg.mode = .production)
    hookCalls := s.hookCalls + 1
    rlen := t.rlen
    leases := s.windows (srcSize s i) :: s.leases
    issued := s.issued + 1
    free := t.free }

/-- What a violation of kind `k` raised in a block step of the running command of `s` leaves (R167): as at issue, with the
command as it was latched before. -/
def ViolatedInStep (s t : State) (k : Kind) : Prop :=
  t = { s with
    busy := false
    viol := true
    cause := some k
    halt := decide (s.cfg.mode = .production)
    hookCalls := s.hookCalls + 1
    rlen := t.rlen
    free := t.free }

/-- The bytes from address `a` up read as the list `bs`. -/
def HoldsAt (m : List Host.Cell) (a : Nat) (bs : List Byte) : Prop :=
  ∀ k, (h : k < bs.length) → Memory.readByte m (a + k) = bs[k]

/-! ### The invariant -/

/-- A running ENC (R131 to R133): the capacity was checked, RPOS is at a window boundary or at the end, WPOS is the
characters of the windows consumed. -/
structure EncRunning (s : State) : Prop where
  op : s.op = 2#2
  capacity : 4 * ((s.len.val + 2) / 3) + 1 ≤ s.cap.val
  rposLe : s.rpos ≤ s.len.val
  boundary : s.rpos % 3 = 0 ∨ s.rpos = s.len.val
  wposEq : s.wpos = 4 * ((s.rpos + 2) / 3)

/-- A running DEC (R136, R137, R139): LEN and RPOS are multiples of 4, and every group before the last yielded 3 bytes. -/
structure DecRunning (s : State) : Prop where
  op : s.op = 3#2
  lenMod : s.len.val % 4 = 0
  rposLe : s.rpos ≤ s.len.val
  rposMod : s.rpos % 4 = 0
  wposLe : s.wpos ≤ s.cap.val
  wposTop : s.wpos ≤ 3 * (s.rpos / 4)
  wposEq : s.rpos < s.len.val → s.wpos = 3 * (s.rpos / 4)

/-- What holds while BUSY = 1. -/
structure Running (s : State) : Prop where
  notHalted : s.halt = false
  notDone : s.done = false
  sink : s.lenv = true
  held : s.src.held = true ∧ s.len.held = true ∧ s.dst.held = true ∧ s.cap.held = true
  srcPresent : s.src.val ≠ 0
  dstPresent : s.dst.val ≠ 0
  srcFits : s.src.val + s.len.val ≤ 2 ^ s.cfg.aw
  dstFits : s.dst.val + s.cap.val ≤ 2 ^ s.cfg.aw
  apart : NoSharedAddress s.src.val s.len.val s.dst.val s.cap.val
  leased : { src := s.src.val, srcLen := s.len.val, dst := s.dst.val, dstLen := s.cap.val } ∈ s.leases
  progress : EncRunning s ∨ DecRunning s

/-- The invariant of the machine: the memory keeps its canonical form inside the address space, every register fits its
width (R32), the sticky flags agree (R21 to R23, R168), DONE and BUSY are never both 1, every command issued since reset has
completed or runs unless VIOL is 1 (R20, R21, R201), and a running stream command is where R130 to R139 say it can be. -/
structure Invariant (s : State) : Prop where
  cfgWf : s.cfg.wf = true
  memWf : Memory.wf s.mem = true
  memSpace : ∀ c ∈ s.mem, c.1 < 2 ^ s.cfg.aw
  srcWidth : s.src.val < 2 ^ s.cfg.aw
  lenWidth : s.len.val < 2 ^ s.cfg.lw
  dstWidth : s.dst.val < 2 ^ s.cfg.aw
  capWidth : s.cap.val < 2 ^ s.cfg.lw
  rlenWidth : s.rlen.val < 2 ^ s.cfg.lw
  rposWidth : s.rpos < 2 ^ s.cfg.lw
  wposWidth : s.wpos < 2 ^ s.cfg.lw
  haltIff : s.halt = (s.viol && decide (s.cfg.mode = .production))
  violCause : s.viol = s.cause.isSome
  busyNotDone : s.done = true → s.busy = false
  counted : s.completed + s.busy.toNat ≤ s.issued
  violCounted : s.viol = true ↔ s.completed + s.busy.toNat < s.issued
  doneIff : s.viol = false → (s.done = true ↔ s.busy = false ∧ s.issued ≠ 0)
  running : s.busy = true → Running s

end Sys2Proof.Machine
end

