-- ==== Sys2Proof/Certificates/Slice0/Obligations.lean ====
section
/-! DEFINITION. The statements for the provers, in the order of the spec's files. The free values of `Config` stand for every
value: no statement rests on one of them. -/

open Sys2Proof Sys2Proof.Machine

/-! ### The command word (30_encoding.md section 6) -/

/-- Decoding the encoding of any command gives it back, and leaves the bytes after it. -/
def Obligations.EncodeThenDecodeGivesTheCommand : Prop :=
  ∀ (i : Instr) (rest : List Byte), i.wf = true → decode (encode i ++ rest) = .ok (i, rest)

/-- R74: the two low bits of a command word select the operation, under mask 0x03. -/
def Obligations.OpcodeMapUnderItsMask : Prop :=
  ∀ (w : Byte) (rest : List Byte),
    decode (w :: rest) = .ok
      (if w &&& 0x03#8 = 0x00#8 then .encb (w.getLsbD 2)
       else if w &&& 0x03#8 = 0x01#8 then .decb (w.getLsbD 2)
       else if w &&& 0x03#8 = 0x02#8 then .enc (w.getLsbD 2)
       else .dec (w.getLsbD 2), rest)

/-- R75: every byte is a command, and the reserved bits have no effect: words equal in bits 2:0 are the same command. -/
def Obligations.NoIllegalWordAndReservedBitsIgnored : Prop :=
  (∀ (w : Byte) (rest : List Byte), ∃ i, decode (w :: rest) = .ok (i, rest)) ∧
    ∀ (w w' : Byte) (rest : List Byte), w &&& 0x07#8 = w' &&& 0x07#8 → decode (w :: rest) = decode (w' :: rest)

/-- The words of R78's notation, and two with reserved bits set (95_test_vectors.md), decode to the commands they stand
for. -/
def Obligations.CommandWordsOfTheCalls : Prop :=
  decode [0x00#8] = .ok (.encb false, []) ∧ decode [0x01#8] = .ok (.decb false, []) ∧
    decode [0x06#8] = .ok (.enc true, []) ∧ decode [0x02#8] = .ok (.enc false, []) ∧
    decode [0x07#8] = .ok (.dec true, []) ∧ decode [0x03#8] = .ok (.dec false, []) ∧
    decode [0xFE#8] = .ok (.enc true, []) ∧ decode [0xF8#8] = .ok (.encb false, [])

/-! ### The tables (30_encoding.md sections 3 and 4) -/

/-- ALPHA is the table of R66, index 0 first. (The codes of most characters are the spec's general knowledge, U1.) -/
def Obligations.AlphabetTableAsListed : Prop :=
  (List.range 64).map (fun i => (alpha (BitVec.ofNat 6 i)).toNat) =
    [0x41, 0x42, 0x43, 0x44, 0x45, 0x46, 0x47, 0x48, 0x49, 0x4A, 0x4B, 0x4C, 0x4D, 0x4E, 0x4F, 0x50] ++
    [0x51, 0x52, 0x53, 0x54, 0x55, 0x56, 0x57, 0x58, 0x59, 0x5A, 0x61, 0x62, 0x63, 0x64, 0x65, 0x66] ++
    [0x67, 0x68, 0x69, 0x6A, 0x6B, 0x6C, 0x6D, 0x6E, 0x6F, 0x70, 0x71, 0x72, 0x73, 0x74, 0x75, 0x76] ++
    [0x77, 0x78, 0x79, 0x7A, 0x30, 0x31, 0x32, 0x33, 0x34, 0x35, 0x36, 0x37, 0x38, 0x39, 0x2B, 0x2F]

/-- R67: the pad character is 0x3D, is no alphabet symbol, is emitted only in positions 2 and 3, and is accepted only
there. -/
def Obligations.PadCharacterOnlyInTheLastTwoPlaces : Prop :=
  padChar = 0x3D#8 ∧ (∀ i, alpha i ≠ 0x3D#8) ∧
    (∀ (d : Group) (n : Nat), n = 1 ∨ n = 2 ∨ n = 3 →
      (enc24 d n).extractLsb' 24 8 ≠ 0x3D#8 ∧ (enc24 d n).extractLsb' 16 8 ≠ 0x3D#8) ∧
    ∀ q : Block, q.extractLsb' 24 8 = 0x3D#8 ∨ q.extractLsb' 16 8 = 0x3D#8 → dec32 q = none

/-- R68: REV of a character is the index of the alphabet symbol it codes, Pad for 0x3D, Invalid for all 191 others; and the
7-bit code R68 suggests. -/
def Obligations.ReverseTableInvertsTheAlphabet : Prop :=
  (∀ (c : Byte) (i : Sextet), rev c = .idx i ↔ alpha i = c) ∧
    (∀ c : Byte, rev c = .pad ↔ c = 0x3D#8) ∧
    ((List.range 256).filter (fun n => decide (rev (BitVec.ofNat 8 n) = .invalid))).length = 191 ∧
    (∀ i : Sextet, (RevEntry.idx i).code.toNat = i.toNat) ∧ RevEntry.pad.code = 0x40#7 ∧ RevEntry.invalid.code = 0x7F#7

/-- A character outside the alphabet and the pad makes its block malformed in every position (R70), and the codes R70 names
are such characters. -/
def Obligations.InvalidCharacterMakesBlockMalformed : Prop :=
  (∀ q : Block, rev (q.extractLsb' 24 8) = .invalid ∨ rev (q.extractLsb' 16 8) = .invalid ∨
      rev (q.extractLsb' 8 8) = .invalid ∨ rev (q.extractLsb' 0 8) = .invalid → dec32 q = none) ∧
    (∀ c : Byte, c.toNat ≤ 0x20 ∨ 0x80 ≤ c.toNat ∨ c = 0x2D#8 ∨ c = 0x5F#8 ∨ c = 0x7F#8 → rev c = .invalid)

/-- The pad patterns of a block with no invalid character (R71): no pad gives 3 bytes, a pad in the last place 2, pads in the
last two places 1, every other pattern is malformed. -/
def Obligations.LegalPadPatterns : Prop :=
  ∀ c0 c1 c2 c3 : Byte, rev c0 ≠ .invalid → rev c1 ≠ .invalid → rev c2 ≠ .invalid → rev c3 ≠ .invalid →
    (dec32 (c0 ++ c1 ++ c2 ++ c3)).map Prod.snd =
      if c0 = 0x3D#8 ∨ c1 = 0x3D#8 then none
      else if c2 = 0x3D#8 then (if c3 = 0x3D#8 then some 1 else none)
      else if c3 = 0x3D#8 then some 2 else some 3

/-! ### enc24 (40_block_encoder.md section 1) -/

/-- R63 and R64 in the block enc24 (R90) makes: the four sextets of a group, most significant first, from its bytes; the bits of absent bytes are zero
and their places hold the pad. -/
def Obligations.EncodedBlockOfTheBytes : Prop :=
  ∀ b0 b1 b2 : Byte,
    enc24 (b0 ++ b1 ++ b2) 3 =
      alpha (b0.extractLsb' 2 6) ++ alpha (b0.extractLsb' 0 2 ++ b1.extractLsb' 4 4) ++
        alpha (b1.extractLsb' 0 4 ++ b2.extractLsb' 6 2) ++ alpha (b2.extractLsb' 0 6) ∧
    enc24 (b0 ++ b1 ++ b2) 2 =
      alpha (b0.extractLsb' 2 6) ++ alpha (b0.extractLsb' 0 2 ++ b1.extractLsb' 4 4) ++
        alpha (b1.extractLsb' 0 4 ++ 0#2) ++ 0x3D#8 ∧
    enc24 (b0 ++ b1 ++ b2) 1 =
      alpha (b0.extractLsb' 2 6) ++ alpha (b0.extractLsb' 0 2 ++ 0#4) ++ 0x3D#8 ++ 0x3D#8

/-- R91 (b) to (e): the pads of a block are its last `3 - n` characters; the absent bytes have no effect; the last sextet of
a short group has zero low bits; for three bytes the map is injective. -/
def Obligations.EncodedBlockShape : Prop :=
  (∀ (d : Group) (n : Nat), n = 1 ∨ n = 2 ∨ n = 3 →
    ((enc24 d n).extractLsb' 8 8 = 0x3D#8 ↔ n = 1) ∧ ((enc24 d n).extractLsb' 0 8 = 0x3D#8 ↔ n ≤ 2) ∧
      enc24 d n = enc24 (d &&& groupMask n) n) ∧
    (∀ d : Group, ∃ a ∈ [0#6, 16#6, 32#6, 48#6], (enc24 d 1).extractLsb' 16 8 = alpha a) ∧
    (∀ d : Group, ∃ a : Sextet, a.toNat % 4 = 0 ∧ (enc24 d 2).extractLsb' 8 8 = alpha a) ∧
    ∀ d d' : Group, enc24 d 3 = enc24 d' 3 → d = d'

/-! ### dec32 (41_block_decoder.md section 1) -/

/-- R72, R111: the bytes four sextets decode to; with pads the discarded bits have no effect; and the encoder never leaves a
discarded bit set. -/
def Obligations.DecodedBytesOfTheSextets : Prop :=
  (∀ a b c e : Sextet,
    dec32 (alpha a ++ alpha b ++ alpha c ++ alpha e) =
      some ([a ++ b.extractLsb' 4 2, b.extractLsb' 0 4 ++ c.extractLsb' 2 4, c.extractLsb' 0 2 ++ e], 3) ∧
    dec32 (alpha a ++ alpha b ++ alpha c ++ 0x3D#8) =
      some ([a ++ b.extractLsb' 4 2, b.extractLsb' 0 4 ++ c.extractLsb' 2 4], 2) ∧
    dec32 (alpha a ++ alpha b ++ 0x3D#8 ++ 0x3D#8) = some ([a ++ b.extractLsb' 4 2], 1)) ∧
  (∀ d : Group, ∃ a b c : Sextet, c.extractLsb' 0 2 = 0#2 ∧
    enc24 d 2 = alpha a ++ alpha b ++ alpha c ++ 0x3D#8) ∧
  ∀ d : Group, ∃ a b : Sextet, b.extractLsb' 0 4 = 0#4 ∧ enc24 d 1 = alpha a ++ alpha b ++ 0x3D#8 ++ 0x3D#8

/-- The block decoder inverts the block encoder (R112, first law). -/
def Obligations.BlockDecoderInvertsBlockEncoder : Prop :=
  ∀ (b0 b1 b2 : Byte) (n : Nat), n = 1 ∨ n = 2 ∨ n = 3 →
    dec32 (enc24 (b0 ++ b1 ++ b2) n) = some ([b0, b1, b2].take n, n)

/-- The block encoder inverts the block decoder on full blocks, and on padded ones exactly when the discarded bits are zero
(R112, second law). -/
def Obligations.BlockEncoderInvertsBlockDecoder : Prop :=
  (∀ (q : Block) (bs : List Byte), dec32 q = some (bs, 3) → enc24 (rawGroup bs) 3 = q) ∧
    (∀ a b c : Sextet, ∀ bs, dec32 (alpha a ++ alpha b ++ alpha c ++ 0x3D#8) = some (bs, 2) →
      (enc24 (rawGroup bs) 2 = alpha a ++ alpha b ++ alpha c ++ 0x3D#8 ↔ c.extractLsb' 0 2 = 0#2)) ∧
    ∀ a b : Sextet, ∀ bs, dec32 (alpha a ++ alpha b ++ 0x3D#8 ++ 0x3D#8) = some (bs, 1) →
      (enc24 (rawGroup bs) 1 = alpha a ++ alpha b ++ 0x3D#8 ++ 0x3D#8 ↔ b.extractLsb' 0 4 = 0#4)

/-! ### ENCB (R92) -/

/-- R92: ENCB by an idle unit where R58 gives it a meaning. Where its checks pass it completes in one step: the four
characters of the block at DST, DONE, and nothing else but the latched command (RLEN, the counters, VIOL, CAUSE as they
were). Otherwise the first failing check raises its violation. (`leases`, `issued` and `completed` are the model's own, log
entries 9 and 20, and no rule's.) -/
def Obligations.EncbWritesOneBlock : Prop :=
  ∀ (lenv : Bool) (s : State), Memory.wf s.mem = true → Idle s → Meaningful s true s.len.val →
    (s.src.val ≠ 0 → s.dst.val ≠ 0 → 1 ≤ s.len.val → s.len.val ≤ 3 → 4 ≤ s.cap.val →
      ∃ t, exec (.encb lenv) s = .next t ∧
        t = { s with
          op := 0#2, lenv := lenv, done := true, mem := t.mem, leases := s.windows s.len.val :: s.leases
          issued := s.issued + 1, completed := s.completed + 1 } ∧
        HoldsAt t.mem s.dst.val
          (blockChars (enc24 (rawGroup (Memory.read s.mem s.src.val s.len.val)) s.len.val)) ∧
        SameOutside s.mem t.mem s.dst.val 4) ∧
    (¬ (s.src.val ≠ 0 ∧ s.dst.val ≠ 0 ∧ 1 ≤ s.len.val ∧ s.len.val ≤ 3 ∧ 4 ≤ s.cap.val) →
      ∃ t, exec (.encb lenv) s = .next t ∧
        ViolatedAtIssue s t (.encb lenv)
          (if s.src.val = 0 then .nullArg else if s.dst.val = 0 then .nullArg
           else if s.len.val = 0 then .degenerate else if 3 < s.len.val then .degenerate else .capacity)) ∧
    ∀ w : Byte, decode [w] = .ok (.encb lenv, []) ↔ w.extractLsb' 0 2 = 0#2 ∧ w.getLsbD 2 = lenv

/-! ### DECB (R113) -/

/-- R113: DECB by an idle unit where R58 gives it a meaning. Where its checks pass and the block is legal it completes in one
step: the `n` meaningful bytes at DST, RLEN = `n`, DONE; the rest of the 3-byte window holds any value and no other byte
changes. Otherwise the first failing check raises its violation, with no byte written. (`leases`, `issued` and `completed` are
the model's own, log entries 9 and 20, and no rule's.) -/
def Obligations.DecbReadsOneBlock : Prop :=
  ∀ (lenv : Bool) (s : State), Memory.wf s.mem = true → Idle s → Meaningful s false 4 →
    (∀ bs n, s.src.val ≠ 0 → s.dst.val ≠ 0 → 3 ≤ s.cap.val →
      dec32 (encBlock (Memory.read s.mem s.src.val 4)) = some (bs, n) →
      ∃ t, exec (.decb lenv) s = .next t ∧
        t = { s with
          op := 1#2, lenv := lenv, done := true, rlen := .holding n, mem := t.mem, leases := s.windows 4 :: s.leases
          issued := s.issued + 1, completed := s.completed + 1, free := t.free } ∧
        1 ≤ n ∧ n ≤ 3 ∧ bs.length = n ∧ HoldsAt t.mem s.dst.val bs ∧ SameOutside s.mem t.mem s.dst.val 3) ∧
    (s.src.val = 0 ∨ s.dst.val = 0 ∨ s.cap.val < 3 ∨ dec32 (encBlock (Memory.read s.mem s.src.val 4)) = none →
      ∃ t, exec (.decb lenv) s = .next t ∧
        ViolatedAtIssue s t (.decb lenv)
          (if s.src.val = 0 then .nullArg else if s.dst.val = 0 then .nullArg
           else if s.cap.val < 3 then .capacity else .malformed)) ∧
    ∀ w : Byte, decode [w] = .ok (.decb lenv, []) ↔ w.extractLsb' 0 2 = 1#2 ∧ w.getLsbD 2 = lenv

/-! ### ENC (R131 to R135) -/

/-- R131: the required capacity of ENC, on natural numbers (`encBlocks` is the least number of blocks of 3 that hold the
input), the check ENC makes of it, and the case that no LW-bit capacity can satisfy it. -/
def Obligations.RequiredCapacityOfEncode : Prop :=
  (∀ l, reqEnc l = 4 * encBlocks l + 1 ∧ l ≤ 3 * encBlocks l ∧ ∀ k, l ≤ 3 * k → encBlocks l ≤ k) ∧
    [reqEnc 0, reqEnc 1, reqEnc 2, reqEnc 3, reqEnc 4, reqEnc 6, reqEnc 7] = [1, 5, 5, 5, 9, 9, 13] ∧
    ∀ s : State, Invariant s → Idle s → Meaningful s true s.len.val → s.src.val ≠ 0 → s.dst.val ≠ 0 →
      (reqEnc s.len.val ≤ s.cap.val → ∃ t, exec (.enc true) s = .next t ∧ t.busy = true ∧ t.viol = s.viol) ∧
      (s.cap.val < reqEnc s.len.val → ∃ t, exec (.enc true) s = .next t ∧ ViolatedAtIssue s t (.enc true) .capacity) ∧
      (2 ^ s.cfg.lw - 1 < reqEnc s.len.val → s.cap.val < reqEnc s.len.val)

/-- R132: the issue step of ENC by an idle unit where R58 gives it a meaning. Where its checks pass it starts the stream,
with no byte written; otherwise the first failing check raises its violation. (`leases` and `issued` are the model's own, log
entries 9 and 20, and no rule's.) -/
def Obligations.EncIssueStartsTheStream : Prop :=
  ∀ (lenv : Bool) (s : State), Idle s → Meaningful s true s.len.val →
    (s.src.val ≠ 0 → s.dst.val ≠ 0 → lenv = true → 4 * ((s.len.val + 2) / 3) + 1 ≤ s.cap.val →
      ∃ t, exec (.enc lenv) s = .next t ∧
        t = { s with
          op := 2#2, lenv := true, done := false, busy := true, rpos := 0, wpos := 0
          leases := s.windows s.len.val :: s.leases, issued := s.issued + 1 }) ∧
    (¬ (s.src.val ≠ 0 ∧ s.dst.val ≠ 0 ∧ lenv = true ∧ 4 * ((s.len.val + 2) / 3) + 1 ≤ s.cap.val) →
      ∃ t, exec (.enc lenv) s = .next t ∧
        ViolatedAtIssue s t (.enc lenv)
          (if s.src.val = 0 then .nullArg else if s.dst.val = 0 then .nullArg
           else if lenv = false then .nullArg else .capacity)) ∧
    ∀ w : Byte, decode [w] = .ok (.enc lenv, []) ↔ w.extractLsb' 0 2 = 2#2 ∧ w.getLsbD 2 = lenv

/-- A block step of a running ENC (R133), with no host action pending. That it raises no violation and that `WPOS + 4 < CAP`
is the spec's own inference, marked derived there (from R131 and R132): here it is concluded from the invariant. -/
def Obligations.EncBlockStepWritesFourCharacters : Prop :=
  ∀ s : State, Invariant s → s.inbox = [] → s.busy = true → s.op = 2#2 → s.rpos < s.len.val →
    1 ≤ min 3 (s.len.val - s.rpos) ∧ s.wpos + 4 < s.cap.val ∧
    ∃ t, step s = .next t ∧
      t = { s with rpos := s.rpos + min 3 (s.len.val - s.rpos), wpos := s.wpos + 4, mem := t.mem } ∧
      HoldsAt t.mem (s.dst.val + s.wpos)
        (blockChars (enc24
          (rawGroup (Memory.read s.mem (s.src.val + s.rpos) (min 3 (s.len.val - s.rpos))))
          (min 3 (s.len.val - s.rpos)))) ∧
      SameOutside s.mem t.mem (s.dst.val + s.wpos) 4

/-- R134: the finish step of ENC, with no host action pending: the terminator, RLEN, BUSY 0 and DONE 1. (`completed`
is the model's own, log entry 20.) -/
def Obligations.EncFinishStepTerminatesTheText : Prop :=
  ∀ s : State, Invariant s → s.inbox = [] → s.busy = true → s.op = 2#2 → s.rpos = s.len.val →
    ∃ t, step s = .next t ∧
      t = { s with
        rlen := .holding s.wpos, busy := false, done := true, completed := s.completed + 1, mem := t.mem } ∧
      Memory.readByte t.mem (s.dst.val + s.wpos) = 0x00#8 ∧
      SameOutside s.mem t.mem (s.dst.val + s.wpos) 1

/-- The end result of ENC as one function (R135): from the issue by an idle unit to its last step, `ceil(LEN / 3) + 1` steps
with no host action pending. The text of the source bytes and its terminator stand at DST, RLEN is the text's length, and no
other byte and no other register changes. -/
def Obligations.EncRunWritesTheText : Prop :=
  ∀ s : State, Invariant s → Idle s → s.inbox = [] → Meaningful s true s.len.val → s.src.val ≠ 0 → s.dst.val ≠ 0 →
    4 * ((s.len.val + 2) / 3) + 1 ≤ s.cap.val →
    ∃ t u : State, exec (.enc true) s = .next t ∧
      Host.Core.run Sys2Proof.core ((s.len.val + 2) / 3 + 1) t = .next u ∧
      u = { s with
        op := 2#2, lenv := true, busy := false, done := true
        rlen := .holding (4 * ((s.len.val + 2) / 3))
        rpos := s.len.val, wpos := 4 * ((s.len.val + 2) / 3), mem := u.mem
        leases := s.windows s.len.val :: s.leases, issued := s.issued + 1, completed := s.completed + 1 } ∧
      HoldsAt u.mem s.dst.val (encText (Memory.read s.mem s.src.val s.len.val) ++ [0x00#8]) ∧
      (encText (Memory.read s.mem s.src.val s.len.val)).length = 4 * ((s.len.val + 2) / 3) ∧
      SameOutside s.mem u.mem s.dst.val (4 * ((s.len.val + 2) / 3) + 1)

/-! ### DEC (R136 to R139) -/

/-- R136: the issue step of DEC by an idle unit where R58 gives it a meaning. Capacity is not checked here. (`leases` and
`issued` are the model's own, log entries 9 and 20, and no rule's.) -/
def Obligations.DecIssueStartsTheStream : Prop :=
  ∀ (lenv : Bool) (s : State), Idle s → Meaningful s true s.len.val →
    (s.src.val ≠ 0 → s.dst.val ≠ 0 → lenv = true → s.len.val % 4 = 0 →
      ∃ t, exec (.dec lenv) s = .next t ∧
        t = { s with
          op := 3#2, lenv := true, done := false, busy := true, rpos := 0, wpos := 0
          leases := s.windows s.len.val :: s.leases, issued := s.issued + 1 }) ∧
    (¬ (s.src.val ≠ 0 ∧ s.dst.val ≠ 0 ∧ lenv = true ∧ s.len.val % 4 = 0) →
      ∃ t, exec (.dec lenv) s = .next t ∧
        ViolatedAtIssue s t (.dec lenv)
          (if s.src.val = 0 then .nullArg else if s.dst.val = 0 then .nullArg
           else if lenv = false then .nullArg else .malformed)) ∧
    ∀ w : Byte, decode [w] = .ok (.dec lenv, []) ↔ w.extractLsb' 0 2 = 3#2 ∧ w.getLsbD 2 = lenv

/-- R137: a block step of a running DEC, with no host action pending: the capacity guard, the block, the final-block guard,
in this order; then the meaningful bytes are written and the rest of the 3-byte window holds any value. A step that raises
writes no byte. -/
def Obligations.DecBlockStepGuardsAndWrites : Prop :=
  ∀ s : State, Invariant s → s.inbox = [] → s.busy = true → s.op = 3#2 → s.rpos < s.len.val →
    ∃ t, step s = .next t ∧
      if s.cap.val - s.wpos < 3 then ViolatedInStep s t .capacity
      else
        match dec32 (encBlock (Memory.read s.mem (s.src.val + s.rpos) 4)) with
        | none => ViolatedInStep s t .malformed
        | some (bs, n) =>
          if n < 3 ∧ s.rpos + 4 < s.len.val then ViolatedInStep s t .malformed
          else
            t = { s with rpos := s.rpos + 4, wpos := s.wpos + n, mem := t.mem, free := t.free } ∧
              bs.length = n ∧ HoldsAt t.mem (s.dst.val + s.wpos) bs ∧
              SameOutside s.mem t.mem (s.dst.val + s.wpos) 3

/-- R138: the finish step of DEC, with no host action pending: RLEN, BUSY 0 and DONE 1, and no memory access. (`completed`
is the model's own, log entry 20.) -/
def Obligations.DecFinishStepReportsTheLength : Prop :=
  ∀ s : State, Invariant s → s.inbox = [] → s.busy = true → s.op = 3#2 → s.rpos = s.len.val →
    step s = .next { s with rlen := .holding s.wpos, busy := false, done := true, completed := s.completed + 1 }

/-- The end result of DEC as one function (R139): from the issue by an idle unit to its last step, at most `LEN / 4 + 1` steps
with no host action pending. The meaningful bytes of the groups before the first that raises stand at DST. If none raises,
RLEN is their number and only the last 3-byte window may change beyond them; otherwise VIOL and CAUSE say what was raised, and
nothing else was written. -/
def Obligations.DecRunWritesTheBytes : Prop :=
  ∀ s : State, Invariant s → Idle s → s.inbox = [] → Meaningful s true s.len.val → s.src.val ≠ 0 → s.dst.val ≠ 0 →
    s.len.val % 4 = 0 →
    ∃ (t u : State) (k : Nat), exec (.dec true) s = .next t ∧ k ≤ s.len.val / 4 + 1 ∧
      Host.Core.run Sys2Proof.core k t = .next u ∧
      match decGroups s.cap.val (Memory.read s.mem s.src.val s.len.val) with
      | (bs, none) =>
        u = { s with
          op := 3#2, lenv := true, busy := false, done := true, rlen := .holding bs.length, rpos := s.len.val
          wpos := bs.length, mem := u.mem, leases := s.windows s.len.val :: s.leases
          issued := s.issued + 1, completed := s.completed + 1, free := u.free } ∧
        HoldsAt u.mem s.dst.val bs ∧ SameOutside s.mem u.mem s.dst.val (3 * (s.len.val / 4))
      | (bs, some kind) =>
        ViolatedAtIssue { s with rpos := u.rpos, wpos := bs.length, mem := u.mem } u (.dec true) kind ∧
        HoldsAt u.mem s.dst.val bs ∧ bs.length % 3 = 0 ∧ SameOutside s.mem u.mem s.dst.val bs.length

/-! ### Laws of the texts (R142 to R146, R198) -/

/-- The round trip (R142): DEC of the text of any byte list `B`, with present references and `CAP >= 3 * ceil(L / 3)`, ends
after at most `LEN / 4 + 1` steps with DONE, RLEN = `L` and the bytes of `B` at DST. (What ENC writes is that text:
EncRunWritesTheText.) -/
def Obligations.DecRestoresTheBytesOfATextOfEnc : Prop :=
  ∀ (B : List Byte) (s : State), Invariant s → Idle s → s.inbox = [] → Meaningful s true s.len.val →
    s.src.val ≠ 0 → s.dst.val ≠ 0 → s.len.val = 4 * ((B.length + 2) / 3) →
    Memory.read s.mem s.src.val s.len.val = encText B → 3 * ((B.length + 2) / 3) ≤ s.cap.val →
    ∃ (t u : State) (k : Nat), exec (.dec true) s = .next t ∧ k ≤ s.len.val / 4 + 1 ∧
      Host.Core.run Sys2Proof.core k t = .next u ∧ u.busy = false ∧ u.done = true ∧ u.viol = s.viol ∧
      u.rlen = .holding B.length ∧ HoldsAt u.mem s.dst.val B

/-- The text of `L` bytes (R143, R144): `4 * ceil(L / 3)` characters; the pads are the last two when `L mod 3 = 1`, the last
one when `L mod 3 = 2`, and there is none when `L mod 3 = 0`. -/
def Obligations.TextLengthAndPadding : Prop :=
  ∀ B : List Byte, (encText B).length = 4 * ((B.length + 2) / 3) ∧
    ∀ k, (h : k < (encText B).length) →
      ((encText B)[k] = 0x3D#8 ↔ (encText B).length ≤ k + (if B.length % 3 = 0 then 0 else 3 - B.length % 3))

/-- Every character of a text is an alphabet character or the pad, and none is the null character (R145, R146). -/
def Obligations.TextHasNoOtherCharacter : Prop :=
  ∀ B : List Byte, ∀ c ∈ encText B, ((∃ i, c = alpha i) ∨ c = 0x3D#8) ∧ c ≠ 0x00#8

/-- The concatenation of two texts (R198) decodes to the concatenated bytes when the first has a multiple of 3 bytes; when
it has not, and the second is not empty, it is malformed. Both hold of every capacity of 3 bytes a group (R139). -/
def Obligations.ConcatenationOfTwoTexts : Prop :=
  ∀ A B : List Byte,
    (A.length % 3 = 0 → decText (encText A ++ encText B) = some (A ++ B) ∧
      ∀ room, 3 * ((encText A ++ encText B).length / 4) ≤ room →
        decGroups room (encText A ++ encText B) = (A ++ B, none)) ∧
    (A.length % 3 ≠ 0 → B ≠ [] →
      ∀ room, 3 * ((encText A ++ encText B).length / 4) ≤ room →
        (decGroups room (encText A ++ encText B)).2 = some .malformed)

/-! ### The outcome of a command (R20, R58, R147, R160) -/

/-- The issue of a command by an idle unit is refused exactly when R58 (a), (b) or (c) does not hold, and never faults. -/
def Obligations.RefusedExactlyWhereMeaningless : Prop :=
  ∀ (i : Instr) (s : State), Idle s →
    (Meaningful s (readsLen i) (srcSize s i) ↔ ∃ t, exec i s = .next t) ∧
    (¬ Meaningful s (readsLen i) (srcSize s i) →
      exec i s = .refused .operandUnset ∨ exec i s = .refused .windowWraps ∨ exec i s = .refused .windowsOverlap)

/-- An issued command completes, runs, or raises a violation, and these exclude each other (R20, R160); a violation at issue
leaves the memory unchanged (R170). -/
def Obligations.CommandSucceedsRunsOrViolates : Prop :=
  ∀ (i : Instr) (s t : State), Idle s → exec i s = .next t →
    (t.done = true ∧ t.busy = false ∧ t.viol = s.viol ∧ t.cause = s.cause ∧ i.opcode.toNat ≤ 1) ∨
    (t.done = false ∧ t.busy = true ∧ t.viol = s.viol ∧ t.cause = s.cause ∧ t.mem = s.mem ∧ 2 ≤ i.opcode.toNat) ∨
    ∃ k, ViolatedAtIssue s t i k

/-- The issue of a command depends on nothing but the operand registers, the configuration and the source bytes (R30, R52,
R147): in two idle states that agree on these it has the same outcome, the same meaningful destination bytes and the same
RLEN. -/
def Obligations.IssueDependsOnOperandsAndSourceOnly : Prop :=
  ∀ (i : Instr) (s s' t : State), Memory.wf s.mem = true → Memory.wf s'.mem = true → Idle s → Idle s' →
    s'.cfg = s.cfg → s'.src = s.src → s'.len = s.len → s'.dst = s.dst → s'.cap = s.cap →
    (∀ x, s.src.val ≤ x → x < s.src.val + srcSize s i → Memory.readByte s'.mem x = Memory.readByte s.mem x) →
    exec i s = .next t →
    ∃ t', exec i s' = .next t' ∧ t'.done = t.done ∧ t'.busy = t.busy ∧ t'.halt = t.halt ∧
      (t.done = false → t.busy = false → t'.cause = t.cause) ∧
      (t.done = true → i.opcode = 0#2 →
        ∀ k < 4, Memory.readByte t'.mem (s.dst.val + k) = Memory.readByte t.mem (s.dst.val + k)) ∧
      (t.done = true → i.opcode = 1#2 → t'.rlen = t.rlen ∧
        ∀ k < t.rlen.val, Memory.readByte t'.mem (s.dst.val + k) = Memory.readByte t.mem (s.dst.val + k))

/-- A running stream command ends (R141): with no host action pending, BUSY is 0 after at most one step more than the
windows left. -/
def Obligations.RunningStreamEnds : Prop :=
  ∀ s : State, Invariant s → s.inbox = [] → s.busy = true →
    ∃ (k : Nat) (u : State), k ≤ (if s.op = 2#2 then (s.len.val - s.rpos + 2) / 3 else (s.len.val - s.rpos) / 4) + 1 ∧
      Host.Core.run Sys2Proof.core k s = .next u ∧ u.busy = false

/-! ### Violations (60_exceptions.md) -/

/-- R167: violation entry. RLEN is left holding some value of its width; the registers, the latched command, the counters and
the memory are unchanged; HALT is set in PRODUCTION mode; the hook is invoked; and the code CAUSE holds for each kind. -/
def Obligations.ViolationEntry : Prop :=
  ∀ (s : State) (k : Kind),
    s.raise k = { s with
      viol := true
      cause := some k
      busy := false
      rlen := (s.raise k).rlen
      halt := if s.cfg.mode = .production then true else s.halt
      hookCalls := s.hookCalls + 1
      free := (s.raise k).free } ∧
    (s.raise k).rlen.held = true ∧ (s.raise k).rlen.val < 2 ^ s.cfg.lw ∧
    [Kind.nullArg.code, Kind.capacity.code, Kind.malformed.code, Kind.degenerate.code] = [1#3, 2#3, 3#3, 4#3]

/-- The hook, as the count of log entry 14, is invoked by violations and by nothing else, once each (R167, R176). A step that
leaves the count enters no violation: VIOL and CAUSE stay (a reset clears them), and every command it ends has completed. A
step that adds one ends its one command uncompleted, with VIOL and CAUSE set and DONE 0; the unit then is halted in
PRODUCTION mode (R168) and idle in TEST mode (R169). -/
def Obligations.HookInvokedExactlyByViolations : Prop :=
  ∀ s t : State, Invariant s → step s = .next t →
    (t.hookCalls = s.hookCalls ∧
      (((∀ rest, s.inbox ≠ .reset :: rest) ∧ t.viol = s.viol ∧ t.cause = s.cause ∧
          t.issued + s.completed + s.busy.toNat = s.issued + t.completed + t.busy.toNat) ∨
        ((∃ rest, s.inbox = .reset :: rest) ∧ t.viol = false ∧ t.cause = none))) ∨
    (t.hookCalls = s.hookCalls + 1 ∧ t.viol = true ∧ t.cause ≠ none ∧ t.busy = false ∧ t.done = false ∧
      t.halt = decide (s.cfg.mode = .production) ∧ t.completed = s.completed ∧
      t.issued + s.busy.toNat = s.issued + 1)

/-- A halted unit with no host action left is stuck (R168; log entry 11). -/
def Obligations.HaltedUnitIsStuck : Prop :=
  ∀ s : State, s.halt = true → s.inbox = [] → step s = .fault .halted

/-! ### Reset (R33, R190, R191) -/

/-- R33: the state after reset, whatever the configuration. The registers without a value refuse every command that would
read them, and a reset changes no byte of memory. -/
def Obligations.ValuesAfterReset : Prop :=
  (∀ c : UnitConfig, State.resetWith c = { State.resetWith c with
      cfg := c, op := 0#2, lenv := false, busy := false, done := false, viol := false, halt := false, cause := none } ∧
    (State.resetWith c).readReg 0 = 0 ∧ (State.resetWith c).readReg 6 = 0 ∧
    (State.resetWith c).src.held = false ∧ (State.resetWith c).len.held = false ∧
    (State.resetWith c).dst.held = false ∧ (State.resetWith c).cap.held = false ∧
    (State.resetWith c).rlen.held = false ∧
    ∀ i, exec i (State.resetWith c) = .refused .operandUnset) ∧
  ∀ s : State, s.resetUnit.mem = s.mem

/-- A reset as the host's next action takes the unit to its reset values from every state, a running command or a halt
among them, and changes no byte of memory (R190, R191; that the host's read value, the count of hook calls and the
bar on the windows are kept is the model's, log entries 9 and 14); a step with any other action keeps VIOL, HALT and CAUSE set
(R21, R22, R23). -/
def Obligations.OnlyResetClearsTheStickyFlags : Prop :=
  (∀ (s : State) (rest : List HostAction), s.inbox = .reset :: rest →
    ∃ t, step s = .next t ∧
      t = { State.resetWith s.cfg with
        mem := s.mem, inbox := rest, rdata := s.rdata, leases := s.leases, hookCalls := s.hookCalls, free := s.free }) ∧
  ∀ s t : State, step s = .next t → (∀ rest, s.inbox ≠ .reset :: rest) →
    (s.viol = true → t.viol = true) ∧ (s.halt = true → t.halt = true) ∧ (s.cause ≠ none → t.cause ≠ none) ∧
      (s.halt = false → t.halt = true → t.cfg.mode = .production)

/-! ### The host (R11, R18, R29, R31, R32, R194, R197) -/

/-- R197: a host write while BUSY or HALT is 1, of any value, has no effect and is not queued: only the action is gone. -/
def Obligations.WriteWhileBusyOrHaltedIsLost : Prop :=
  ∀ (s : State) (r v : Nat) (rest : List HostAction), s.busy = true ∨ s.halt = true →
    s.inbox = .wr r v :: rest → step s = .next { s with inbox := rest }

/-- A host write of an operand register of an idle unit (R13 to R16, R31): the register holds the value, and nothing else
changes. A value the register has no room for leaves it holding some value of its width (the model's choice, log entry 10). A
write of RLEN, of STATUS or of a number that does not exist changes nothing (R17, R18, R31, R32). -/
def Obligations.HostWriteSetsOneOperand : Prop :=
  ∀ (s : State) (v : Nat) (rest : List HostAction), Idle s →
    (s.inbox = .wr 1 v :: rest → v < 2 ^ s.cfg.aw →
      step s = .next { s with inbox := rest, src := { val := v, held := true } }) ∧
    (s.inbox = .wr 2 v :: rest → v < 2 ^ s.cfg.lw →
      step s = .next { s with inbox := rest, len := { val := v, held := true } }) ∧
    (s.inbox = .wr 3 v :: rest → v < 2 ^ s.cfg.aw →
      step s = .next { s with inbox := rest, dst := { val := v, held := true } }) ∧
    (s.inbox = .wr 4 v :: rest → v < 2 ^ s.cfg.lw →
      step s = .next { s with inbox := rest, cap := { val := v, held := true } }) ∧
    (s.inbox = .wr 1 v :: rest → ∃ t, step s = .next t ∧
      t = { s with inbox := rest, src := t.src, free := t.free } ∧ t.src.held = true ∧ t.src.val < 2 ^ s.cfg.aw) ∧
    (s.inbox = .wr 2 v :: rest → ∃ t, step s = .next t ∧
      t = { s with inbox := rest, len := t.len, free := t.free } ∧ t.len.held = true ∧ t.len.val < 2 ^ s.cfg.lw) ∧
    (s.inbox = .wr 3 v :: rest → ∃ t, step s = .next t ∧
      t = { s with inbox := rest, dst := t.dst, free := t.free } ∧ t.dst.held = true ∧ t.dst.val < 2 ^ s.cfg.aw) ∧
    (s.inbox = .wr 4 v :: rest → ∃ t, step s = .next t ∧
      t = { s with inbox := rest, cap := t.cap, free := t.free } ∧ t.cap.held = true ∧ t.cap.val < 2 ^ s.cfg.lw) ∧
    ∀ r, 5 ≤ r → s.inbox = .wr r v :: rest → step s = .next { s with inbox := rest }

/-- R18: the word a host reads at STATUS, and a host write of it is ignored. -/
def Obligations.StatusWordLayout : Prop :=
  (∀ (s : State) (rest : List HostAction), s.inbox = .rd 6 :: rest →
    ∃ t, step s = .next t ∧
      t.rdata = s.busy.toNat + 2 * s.done.toNat + 4 * s.viol.toNat + 8 * s.halt.toNat + 16 *
        (match s.cause with
         | none => 0
         | some .nullArg => 1
         | some .capacity => 2
         | some .malformed => 3
         | some .degenerate => 4)) ∧
  ∀ (s : State) (v : Nat) (rest : List HostAction), s.inbox = .wr 6 v :: rest → step s = .next { s with inbox := rest }

/-- A host read (R12, R31, R32, R33): it changes nothing of the unit or the memory, and only a read of STATUS with BUSY = 0
ends the bar on the windows (R194); CTRL reads its latched bits; a register
that holds a value reads it, one that holds none reads some value of its width; a number that does not exist reads 0. -/
def Obligations.HostReadHasNoSideEffect : Prop :=
  ∀ (s : State) (r : Nat) (rest : List HostAction), s.inbox = .rd r :: rest →
    ∃ t, step s = .next t ∧
      t = { s with
        inbox := rest, rdata := t.rdata, leases := if r = 6 ∧ s.busy = false then [] else s.leases, free := t.free } ∧
      (r = 0 → t.rdata = s.op.toNat + 4 * s.lenv.toNat) ∧
      (r = 1 → (s.src.held = true → t.rdata = s.src.val) ∧ (s.src.held = false → t.rdata < 2 ^ s.cfg.aw)) ∧
      (r = 2 → (s.len.held = true → t.rdata = s.len.val) ∧ (s.len.held = false → t.rdata < 2 ^ s.cfg.lw)) ∧
      (r = 3 → (s.dst.held = true → t.rdata = s.dst.val) ∧ (s.dst.held = false → t.rdata < 2 ^ s.cfg.aw)) ∧
      (r = 4 → (s.cap.held = true → t.rdata = s.cap.val) ∧ (s.cap.held = false → t.rdata < 2 ^ s.cfg.lw)) ∧
      (r = 5 → (s.rlen.held = true → t.rdata = s.rlen.val) ∧ (s.rlen.held = false → t.rdata < 2 ^ s.cfg.lw)) ∧
      (7 ≤ r → t.rdata = 0)

/-- No step but a host write or a reset changes an operand register or the latched command (R11), and no step at all changes
the configuration (R29). -/
def Obligations.OperandsAreTheHostsAlone : Prop :=
  ∀ s t : State, step s = .next t →
    t.cfg = s.cfg ∧
    ((∀ r v rest, s.inbox ≠ .wr r v :: rest) → (∀ rest, s.inbox ≠ .reset :: rest) →
      t.src = s.src ∧ t.len = s.len ∧ t.dst = s.dst ∧ t.cap = s.cap ∧ t.op = s.op ∧ t.lenv = s.lenv)

/-- The write frame (R51): a step that is no memory write of the host changes no byte outside the destination window
`[DST, DST + CAP)`. -/
def Obligations.OnlyTheDestinationWindowIsWritten : Prop :=
  ∀ s t : State, Invariant s → step s = .next t → (∀ a b rest, s.inbox ≠ .memWr a b :: rest) →
    SameOutside s.mem t.mem s.dst.val s.cap.val

/-- Buffer exclusivity (R58 (d), R194; log entry 9). While the windows of an issued command are barred, another agent's
write to either of them or read of the destination window is refused, and any other access to an address that exists is
performed. The windows of a running command are among the barred ones. -/
def Obligations.SharedWindowAccessIsRefused : Prop :=
  (∀ (s : State) (a : Nat) (b : Byte) (rest : List HostAction), a < 2 ^ s.cfg.aw →
    (s.inbox = .memWr a b :: rest →
      if ∃ w ∈ s.leases, (w.src ≤ a ∧ a < w.src + w.srcLen) ∨ (w.dst ≤ a ∧ a < w.dst + w.dstLen) then
        step s = .refused .windowShared
      else step s = .next { s with inbox := rest, mem := Memory.writeByte s.mem a b }) ∧
    (s.inbox = .memRd a :: rest →
      if ∃ w ∈ s.leases, w.dst ≤ a ∧ a < w.dst + w.dstLen then step s = .refused .windowShared
      else step s = .next { s with inbox := rest, rdata := (Memory.readByte s.mem a).toNat })) ∧
  ∀ s : State, Invariant s → s.busy = true →
    { src := s.src.val, srcLen := s.len.val, dst := s.dst.val, dstLen := s.cap.val } ∈ s.leases

/-- How long the windows of a command are barred (R194; log entry 9): from its issue, whatever becomes of the command, until
the host reads STATUS with BUSY = 0 (by itself or in WAIT), which frees every window. No other step frees one, the issue of
another command and a reset included. -/
def Obligations.WindowsStayBarredUntilBusyIsReadZero : Prop :=
  (∀ (i : Instr) (s t : State), Idle s → exec i s = .next t → t.leases = s.windows (srcSize s i) :: s.leases) ∧
  ∀ s t : State, step s = .next t →
    (∀ w ∈ s.leases, w ∈ t.leases) ∨
    (t.leases = [] ∧ s.busy = false ∧ ∃ rest, s.inbox = .rd 6 :: rest ∨ s.inbox = .wait :: rest)

/-- The host reaches the memory a byte at a time (R40, R47, R200). With no command's windows to keep off, a write stores the
byte and a read returns it, and no other byte changes; an address at or above `2 ^ AW` does not exist and faults (log entry 12). -/
def Obligations.HostReachesTheMemory : Prop :=
  ∀ (s : State) (a : Nat) (b : Byte) (rest : List HostAction), Memory.wf s.mem = true →
    (s.leases = [] → a < 2 ^ s.cfg.aw →
      (s.inbox = .memWr a b :: rest →
        ∃ t, step s = .next t ∧ t = { s with inbox := rest, mem := t.mem } ∧ Memory.readByte t.mem a = b ∧
          SameOutside s.mem t.mem a 1) ∧
      (s.inbox = .memRd a :: rest →
        step s = .next { s with inbox := rest, rdata := (Memory.readByte s.mem a).toNat })) ∧
    (2 ^ s.cfg.aw ≤ a → s.inbox = .memWr a b :: rest ∨ s.inbox = .memRd a :: rest →
      step s = .fault .noSuchAddress)

/-- WAIT (R78, R174): while BUSY is 1 it reads STATUS, stays, and the unit takes its step, the same step in every field as
after a read of STATUS with no host action pending (`hostRead`, HostReadHasNoSideEffect); once BUSY is 0 it reads STATUS and is
over, and the host need no longer keep off the windows (R194). The scheduling is the model's (log entry 8). -/
def Obligations.WaitPollsUntilNotBusy : Prop :=
  ∀ (s : State) (rest : List HostAction), Invariant s → s.inbox = .wait :: rest →
    (s.busy = true →
      (∃ t, step s = .next t ∧ t.inbox = .wait :: rest ∧ t.rdata % 2 = 1 ∧ (t.busy = true → s.rpos < t.rpos)) ∧
      ∀ u, step { s.hostRead 6 with inbox := [] } = .next u → step s = .next { u with inbox := .wait :: rest }) ∧
    (s.busy = false → ∃ t, step s = .next t ∧
      t = { s with inbox := rest, rdata := t.rdata, leases := [], free := t.free } ∧ t.rdata % 2 = 0)

/-! ### The machine -/

/-- A step runs the decoded command: when the host's next action writes a byte to CTRL, the step is `exec` of the command the
byte decodes to, in the state with that action taken from the inbox (log entry 8). A value CTRL has no room for issues some
command all the same, with nothing else changed but the counter of the free values (the model's choice, log entry 10). -/
def Obligations.StepRunsTheDecodedCommand : Prop :=
  (∀ (s : State) (v : Nat) (i : Instr) (rest : List HostAction), s.inbox = .wr 0 v :: rest → v < 256 →
    decode [BitVec.ofNat 8 v] = .ok (i, []) → step s = exec i { s with inbox := rest }) ∧
  ∀ (s : State) (v : Nat) (rest : List HostAction), s.inbox = .wr 0 v :: rest →
    ∃ (i : Instr) (f : Nat), step s = exec i { s with inbox := rest, free := f }

/-- The invariant of the machine holds after reset of a unit with any configuration R4 allows. -/
def Obligations.ResetEstablishesTheInvariant : Prop :=
  Invariant State.reset ∧ ∀ c : UnitConfig, c.wf = true → Invariant (State.resetWith c)

/-- Every step keeps the invariant of the machine, from every state that meets it and whatever the host does. -/
def Obligations.EveryStepKeepsTheInvariant : Prop :=
  ∀ s t : State, Invariant s → step s = .next t → Invariant t

/-- The unit's own turn (R130, R181). From a state that meets the invariant, with no host action pending, it answers a next
state unless the unit is halted: while a command runs exactly one step is enabled. An idle unit keeps all it holds. A turn
under the host action `pass` is the same turn, and a halted unit keeps all it holds there (the scheduling is the model's, log
entry 8). -/
def Obligations.UnitStepAlwaysEnabled : Prop :=
  (∀ s : State, Invariant s → s.inbox = [] → s.halt = false → ∃ t, step s = .next t) ∧
  (∀ s : State, Idle s → s.inbox = [] → step s = .next s) ∧
  ∀ (s : State) (rest : List HostAction), s.inbox = .pass :: rest →
    (s.halt = false → ∀ t, step { s with inbox := [] } = .next t → step s = .next { t with inbox := rest }) ∧
    (s.halt = true → step s = .next { s with inbox := rest })

/-- The end of a run (R201): from a state that meets the invariant, a run that is over has ended well or badly and not both; a
run in which BUSY is 1 has ended neither way; and a run that ended well left DONE = 1 if it issued a command. -/
def Obligations.RunEndsWellOrBadly : Prop :=
  ∀ s : State, Invariant s →
    (RunOver s → (EndedWell s ∨ EndedBadly s)) ∧ ¬ (EndedWell s ∧ EndedBadly s) ∧
    (s.busy = true → ¬ EndedWell s ∧ ¬ EndedBadly s) ∧ (EndedWell s → s.issued ≠ 0 → ResultsValid s)
end

