-- ==== Sys2Proof/Laws/Codec.lean ====
section
/-! SUPPORT. The small lemmas of the tables, of blocks and groups as lists of bytes, and of texts. -/

namespace Sys2Proof.Machine

/-! ### The tables -/

theorem rev_alpha : ∀ i, rev (alpha i) = .idx i := by decide +kernel

theorem rev_pad : rev 0x3D#8 = .pad := by decide

/-- The code REV gives an index is that index's character. -/
theorem alpha_of_rev {c : Byte} {i : Sextet} : rev c = .idx i → alpha i = c := by
  have h : ∀ (c : Byte) (i : Sextet), rev c = .idx i → alpha i = c := by decide +kernel
  exact h c i

/-- REV answers Pad for the pad character only. -/
theorem pad_of_rev {c : Byte} : rev c = .pad → c = 0x3D#8 := by
  have h : ∀ c : Byte, rev c = .pad → c = 0x3D#8 := by decide +kernel
  exact h c

theorem alpha_ne_pad (i : Sextet) : alpha i ≠ 0x3D#8 := by
  intro h
  have hr := rev_alpha i
  rw [h, rev_pad] at hr
  cases hr

/-! ### Blocks and groups as bytes -/

theorem block_char0 (a b c d : Byte) : (a ++ b ++ c ++ d : Block).extractLsb' 24 8 = a := by
  ext i hi; simp; grind

theorem block_char1 (a b c d : Byte) : (a ++ b ++ c ++ d : Block).extractLsb' 16 8 = b := by
  ext i hi; simp; grind

theorem block_char2 (a b c d : Byte) : (a ++ b ++ c ++ d : Block).extractLsb' 8 8 = c := by
  ext i hi; simp; grind

theorem block_char3 (a b c d : Byte) : (a ++ b ++ c ++ d : Block).extractLsb' 0 8 = d := by
  ext i hi; simp; grind

/-- A block is its four characters. -/
theorem block_eta (q : Block) :
    q.extractLsb' 24 8 ++ q.extractLsb' 16 8 ++ q.extractLsb' 8 8 ++ q.extractLsb' 0 8 = q := by
  ext i hi; simp; grind

/-- A group is its three bytes. -/
theorem group_eta (d : Group) : d.extractLsb' 16 8 ++ d.extractLsb' 8 8 ++ d.extractLsb' 0 8 = d := by
  ext i hi; simp; grind

/-- A block laid out in the buffer and read back (R44, R65). -/
theorem encBlock_blockChars (q : Block) : encBlock (blockChars q) = q := by
  simp only [encBlock, blockChars, List.getD_cons_zero, List.getD_cons_succ]
  exact block_eta q

theorem blockChars_append (a b c d : Byte) : blockChars (a ++ b ++ c ++ d) = [a, b, c, d] := by
  simp only [blockChars]
  rw [block_char0, block_char1, block_char2, block_char3]

@[simp] theorem blockChars_length (q : Block) : (blockChars q).length = 4 := rfl

/-- The mask of a full group keeps every bit (R64). -/
theorem and_groupMask_three (d : Group) : d &&& groupMask 3 = d := by
  have h : groupMask 3 = BitVec.allOnes 24 := by decide
  rw [h]
  exact BitVec.and_allOnes

/-- Four sextets as three bytes (R72). -/
theorem groupBytes_joinSextets (a b c e : Sextet) :
    groupBytes (joinSextets a b c e) =
      [a ++ b.extractLsb' 4 2, b.extractLsb' 0 4 ++ c.extractLsb' 2 4, c.extractLsb' 0 2 ++ e] := by
  simp only [groupBytes, joinSextets]
  congr 1
  · ext i hi; simp; grind
  congr 1
  · ext i hi; simp; grind
  congr 1
  · ext i hi; simp; grind

end Sys2Proof.Machine
end

