-- ==== Sys2Proof/Laws/Memory.lean ====
section
/-! SUPPORT. The buffer memory: what is read after a write, and that every memory operation keeps the canonical form and
the bound on its addresses. -/

namespace Sys2Proof.Machine

/-! ### The canonical form -/

theorem wf_cons (k : Nat) (v : Byte) (m : List Host.Cell) :
    Memory.wf ((k, v) :: m) = true ↔ v ≠ unlistedByte ∧ (∀ c ∈ m, k < c.1) ∧ Memory.wf m = true := by
  simp [Memory.wf, and_assoc]

theorem wf_tail {k : Nat} {v : Byte} {m : List Host.Cell} (h : Memory.wf ((k, v) :: m) = true) :
    Memory.wf m = true := ((wf_cons k v m).1 h).2.2

/-- An address below every listed one reads as unlisted. -/
theorem readByte_below (m : List Host.Cell) (a : Nat) (h : ∀ c ∈ m, a < c.1) :
    Memory.readByte m a = unlistedByte := by
  induction m with
  | nil => rfl
  | cons c m ih =>
    obtain ⟨k, v⟩ := c
    have hk : a < k := h (k, v) (by simp)
    simp only [Memory.readByte, Nat.ne_of_lt hk, if_false]
    exact ih fun c hc => h c (by simp [hc])

/-- The addresses a write lists are those listed before and the one written. -/
theorem mem_writeByte {m : List Host.Cell} {a : Nat} {b : Byte} {c : Host.Cell}
    (h : c ∈ Memory.writeByte m a b) : c ∈ m ∨ c.1 = a := by
  induction m with
  | nil =>
    simp only [Memory.writeByte] at h
    split at h <;> simp_all
  | cons d m ih =>
    obtain ⟨k, v⟩ := d
    simp only [Memory.writeByte] at h
    split at h
    · split at h
      · exact .inl h
      · rcases List.mem_cons.1 h with rfl | h
        · exact .inr rfl
        · exact .inl h
    · split at h
      · split at h
        · exact .inl (List.mem_cons_of_mem _ h)
        · rcases List.mem_cons.1 h with rfl | h
          · exact .inr rfl
          · exact .inl (List.mem_cons_of_mem _ h)
      · rcases List.mem_cons.1 h with rfl | h
        · exact .inl (by simp)
        · rcases ih h with h | h
          · exact .inl (List.mem_cons_of_mem _ h)
          · exact .inr h

/-- A write keeps the canonical form. -/
theorem writeByte_wf (m : List Host.Cell) (a : Nat) (b : Byte) (h : Memory.wf m = true) :
    Memory.wf (Memory.writeByte m a b) = true := by
  induction m with
  | nil =>
    simp only [Memory.writeByte]
    split
    · rfl
    · rename_i hb; simp [Memory.wf, hb]
  | cons d m ih =>
    obtain ⟨k, v⟩ := d
    obtain ⟨hv, hk, hm⟩ := (wf_cons k v m).1 h
    simp only [Memory.writeByte]
    split
    · rename_i hak
      split
      · exact h
      · rename_i hb
        refine (wf_cons _ _ _).2 ⟨hb, ?_, h⟩
        intro c hc
        rcases List.mem_cons.1 hc with rfl | hc
        · exact hak
        · exact Nat.lt_trans hak (hk c hc)
    · split
      · rename_i hak
        split
        · exact hm
        · rename_i hb
          exact (wf_cons _ _ _).2 ⟨hb, hak ▸ hk, hm⟩
      · rename_i h1 h2
        refine (wf_cons _ _ _).2 ⟨hv, ?_, ih hm⟩
        intro c hc
        rcases mem_writeByte hc with hc | hc
        · exact hk c hc
        · omega

/-! ### Reads after writes -/

/-- A byte read after it is written is the byte written. -/
theorem readByte_writeByte_same (m : List Host.Cell) (a : Nat) (b : Byte) (h : Memory.wf m = true) :
    Memory.readByte (Memory.writeByte m a b) a = b := by
  induction m with
  | nil =>
    simp only [Memory.writeByte]
    split
    · rename_i hb; simp [Memory.readByte, hb]
    · simp [Memory.readByte]
  | cons d m ih =>
    obtain ⟨k, v⟩ := d
    obtain ⟨_, hk, hm⟩ := (wf_cons k v m).1 h
    simp only [Memory.writeByte]
    split
    · rename_i hak
      split
      · rename_i hb
        rw [hb]
        exact readByte_below _ _ fun c hc => by
          rcases List.mem_cons.1 hc with rfl | hc
          · exact hak
          · exact Nat.lt_trans hak (hk c hc)
      · simp [Memory.readByte]
    · split
      · rename_i hak
        split
        · rename_i hb
          rw [hb]
          exact readByte_below _ _ (hak ▸ hk)
        · simp [Memory.readByte]
      · rename_i h1 h2
        simp only [Memory.readByte, h2, if_false]
        exact ih hm

/-- A write leaves every other address alone. -/
theorem readByte_writeByte_other (m : List Host.Cell) (a x : Nat) (b : Byte) (h : Memory.wf m = true) (hx : x ≠ a) :
    Memory.readByte (Memory.writeByte m a b) x = Memory.readByte m x := by
  induction m with
  | nil =>
    simp only [Memory.writeByte]
    split <;> simp [Memory.readByte, hx]
  | cons d m ih =>
    obtain ⟨k, v⟩ := d
    obtain ⟨_, hk, hm⟩ := (wf_cons k v m).1 h
    simp only [Memory.writeByte]
    split
    · split
      · rfl
      · simp [Memory.readByte, hx]
    · split
      · rename_i hak
        subst hak
        split <;> simp [Memory.readByte, hx]
      · simp only [Memory.readByte, ih hm]

/-! ### Lists of bytes -/

theorem write_wf (m : List Host.Cell) (a : Nat) (bs : List Byte) (h : Memory.wf m = true) :
    Memory.wf (Memory.write m a bs) = true := by
  induction bs generalizing m a with
  | nil => exact h
  | cons b bs ih => exact ih _ _ (writeByte_wf m a b h)

/-- A write of a list leaves every address outside its bytes alone. -/
theorem readByte_write_outside (m : List Host.Cell) (a x : Nat) (bs : List Byte) (h : Memory.wf m = true)
    (hx : x < a ∨ a + bs.length ≤ x) : Memory.readByte (Memory.write m a bs) x = Memory.readByte m x := by
  induction bs generalizing m a with
  | nil => rfl
  | cons b bs ih =>
    simp only [List.length_cons] at hx
    rw [Memory.write, ih _ _ (writeByte_wf m a b h) (by omega), readByte_writeByte_other m a x b h (by omega)]

/-- Byte `i` of a written list is read at the base plus `i`. -/
theorem readByte_write_inside (m : List Host.Cell) (a i : Nat) (bs : List Byte) (h : Memory.wf m = true)
    (hi : i < bs.length) : Memory.readByte (Memory.write m a bs) (a + i) = bs[i] := by
  induction bs generalizing m a i with
  | nil => simp at hi
  | cons b bs ih =>
    have hw := writeByte_wf m a b h
    cases i with
    | zero =>
      show Memory.readByte (Memory.write (Memory.writeByte m a b) (a + 1) bs) a = b
      rw [readByte_write_outside _ _ _ _ hw (.inl (Nat.lt_add_one a)), readByte_writeByte_same m a b h]
    | succ i =>
      simp only [List.length_cons] at hi
      have := ih (Memory.writeByte m a b) (a + 1) i hw (by omega)
      rw [Memory.write, show a + (i + 1) = a + 1 + i by omega, this]
      rfl

@[simp] theorem read_length (m : List Host.Cell) (a n : Nat) : (Memory.read m a n).length = n := by
  induction n generalizing a with
  | zero => rfl
  | succ n ih => simp [Memory.read, ih]

/-- Two memories that agree on the addresses read give the same bytes. -/
theorem read_congr (m m' : List Host.Cell) (a n : Nat)
    (h : ∀ x, a ≤ x → x < a + n → Memory.readByte m x = Memory.readByte m' x) :
    Memory.read m a n = Memory.read m' a n := by
  induction n generalizing a with
  | zero => rfl
  | succ n ih =>
    rw [Memory.read, Memory.read, h a (Nat.le_refl a) (by omega), ih (a + 1) fun x h1 h2 => h x (by omega) (by omega)]

/-- What a written list is read back as. -/
theorem read_write (m : List Host.Cell) (a : Nat) (bs : List Byte) (h : Memory.wf m = true) :
    Memory.read (Memory.write m a bs) a bs.length = bs := by
  induction bs generalizing m a with
  | nil => rfl
  | cons b bs ih =>
    have hw := writeByte_wf m a b h
    rw [List.length_cons, Memory.read, Memory.write, ih _ _ hw,
      readByte_write_outside _ _ _ _ hw (.inl (Nat.lt_add_one a)), readByte_writeByte_same m a b h]

/-- A list is read in two parts. -/
theorem read_add (m : List Host.Cell) (a n k : Nat) :
    Memory.read m a (n + k) = Memory.read m a n ++ Memory.read m (a + n) k := by
  induction n generalizing a with
  | zero => simp [Memory.read]
  | succ n ih =>
    rw [show n + 1 + k = (n + k) + 1 by omega, Memory.read, Memory.read, ih, List.cons_append,
      show a + 1 + n = a + (n + 1) by omega]

/-! ### Havoc and the address space -/

@[simp] theorem freeBytes_length (k n : Nat) : (freeBytes k n).length = n := by
  induction n generalizing k with
  | zero => rfl
  | succ n ih => simp [freeBytes, ih]

theorem havoc_wf (m : List Host.Cell) (a n k : Nat) (h : Memory.wf m = true) :
    Memory.wf (Memory.havoc m a n k) = true := write_wf _ _ _ h

/-- Havoc leaves every address outside its bytes alone. -/
theorem readByte_havoc_outside (m : List Host.Cell) (a n k x : Nat) (h : Memory.wf m = true)
    (hx : x < a ∨ a + n ≤ x) : Memory.readByte (Memory.havoc m a n k) x = Memory.readByte m x :=
  readByte_write_outside _ _ _ _ h (by simpa using hx)

/-- A write below a bound keeps the listed addresses below it. -/
theorem write_below (m : List Host.Cell) (a N : Nat) (bs : List Byte) (h : ∀ c ∈ m, c.1 < N)
    (hN : a + bs.length ≤ N) : ∀ c ∈ Memory.write m a bs, c.1 < N := by
  induction bs generalizing m a with
  | nil => exact h
  | cons b bs ih =>
    simp only [List.length_cons] at hN
    refine ih _ _ (fun c hc => ?_) (by omega)
    rcases mem_writeByte hc with hc | hc
    · exact h c hc
    · omega

end Sys2Proof.Machine
end

