-- ==== Sys2Proof/Laws/State.lean ====
section
/-! SUPPORT. What each named update of the state does to each field, one lemma a field, so that no proof unfolds a record
update. -/

namespace Sys2Proof.Machine

/-! ### Latching a command (R12, R20, R194) -/

@[simp] theorem latch_cfg (s : State) (op : BitVec 2) (lenv : Bool) (w : Lease) : (s.latch op lenv w).cfg = s.cfg := rfl
@[simp] theorem latch_op (s : State) (op : BitVec 2) (lenv : Bool) (w : Lease) : (s.latch op lenv w).op = op := rfl
@[simp] theorem latch_lenv (s : State) (op : BitVec 2) (lenv : Bool) (w : Lease) : (s.latch op lenv w).lenv = lenv := rfl
@[simp] theorem latch_src (s : State) (op : BitVec 2) (lenv : Bool) (w : Lease) : (s.latch op lenv w).src = s.src := rfl
@[simp] theorem latch_len (s : State) (op : BitVec 2) (lenv : Bool) (w : Lease) : (s.latch op lenv w).len = s.len := rfl
@[simp] theorem latch_dst (s : State) (op : BitVec 2) (lenv : Bool) (w : Lease) : (s.latch op lenv w).dst = s.dst := rfl
@[simp] theorem latch_cap (s : State) (op : BitVec 2) (lenv : Bool) (w : Lease) : (s.latch op lenv w).cap = s.cap := rfl
@[simp] theorem latch_rlen (s : State) (op : BitVec 2) (lenv : Bool) (w : Lease) : (s.latch op lenv w).rlen = s.rlen := rfl
@[simp] theorem latch_busy (s : State) (op : BitVec 2) (lenv : Bool) (w : Lease) : (s.latch op lenv w).busy = s.busy := rfl
@[simp] theorem latch_done (s : State) (op : BitVec 2) (lenv : Bool) (w : Lease) : (s.latch op lenv w).done = false := rfl
@[simp] theorem latch_viol (s : State) (op : BitVec 2) (lenv : Bool) (w : Lease) : (s.latch op lenv w).viol = s.viol := rfl
@[simp] theorem latch_halt (s : State) (op : BitVec 2) (lenv : Bool) (w : Lease) : (s.latch op lenv w).halt = s.halt := rfl
@[simp] theorem latch_cause (s : State) (op : BitVec 2) (lenv : Bool) (w : Lease) : (s.latch op lenv w).cause = s.cause := rfl
@[simp] theorem latch_rpos (s : State) (op : BitVec 2) (lenv : Bool) (w : Lease) : (s.latch op lenv w).rpos = s.rpos := rfl
@[simp] theorem latch_wpos (s : State) (op : BitVec 2) (lenv : Bool) (w : Lease) : (s.latch op lenv w).wpos = s.wpos := rfl
@[simp] theorem latch_mem (s : State) (op : BitVec 2) (lenv : Bool) (w : Lease) : (s.latch op lenv w).mem = s.mem := rfl
@[simp] theorem latch_inbox (s : State) (op : BitVec 2) (lenv : Bool) (w : Lease) : (s.latch op lenv w).inbox = s.inbox := rfl
@[simp] theorem latch_rdata (s : State) (op : BitVec 2) (lenv : Bool) (w : Lease) : (s.latch op lenv w).rdata = s.rdata := rfl
@[simp] theorem latch_leases (s : State) (op : BitVec 2) (lenv : Bool) (w : Lease) : (s.latch op lenv w).leases = w :: s.leases := rfl
@[simp] theorem latch_issued (s : State) (op : BitVec 2) (lenv : Bool) (w : Lease) : (s.latch op lenv w).issued = s.issued + 1 := rfl
@[simp] theorem latch_completed (s : State) (op : BitVec 2) (lenv : Bool) (w : Lease) : (s.latch op lenv w).completed = s.completed := rfl
@[simp] theorem latch_hookCalls (s : State) (op : BitVec 2) (lenv : Bool) (w : Lease) : (s.latch op lenv w).hookCalls = s.hookCalls := rfl
@[simp] theorem latch_free (s : State) (op : BitVec 2) (lenv : Bool) (w : Lease) : (s.latch op lenv w).free = s.free := rfl

/-! ### Violation entry (R167) -/

@[simp] theorem raise_cfg (s : State) (k : Kind) : (s.raise k).cfg = s.cfg := rfl
@[simp] theorem raise_op (s : State) (k : Kind) : (s.raise k).op = s.op := rfl
@[simp] theorem raise_lenv (s : State) (k : Kind) : (s.raise k).lenv = s.lenv := rfl
@[simp] theorem raise_src (s : State) (k : Kind) : (s.raise k).src = s.src := rfl
@[simp] theorem raise_len (s : State) (k : Kind) : (s.raise k).len = s.len := rfl
@[simp] theorem raise_dst (s : State) (k : Kind) : (s.raise k).dst = s.dst := rfl
@[simp] theorem raise_cap (s : State) (k : Kind) : (s.raise k).cap = s.cap := rfl
@[simp] theorem raise_rlen (s : State) (k : Kind) : (s.raise k).rlen = .holding (Config.freeNat s.free % 2 ^ s.cfg.lw) := rfl
@[simp] theorem raise_busy (s : State) (k : Kind) : (s.raise k).busy = false := rfl
@[simp] theorem raise_done (s : State) (k : Kind) : (s.raise k).done = s.done := rfl
@[simp] theorem raise_viol (s : State) (k : Kind) : (s.raise k).viol = true := rfl
@[simp] theorem raise_halt (s : State) (k : Kind) : (s.raise k).halt = (s.halt || decide (s.cfg.mode = .production)) := rfl
@[simp] theorem raise_cause (s : State) (k : Kind) : (s.raise k).cause = some k := rfl
@[simp] theorem raise_rpos (s : State) (k : Kind) : (s.raise k).rpos = s.rpos := rfl
@[simp] theorem raise_wpos (s : State) (k : Kind) : (s.raise k).wpos = s.wpos := rfl
@[simp] theorem raise_mem (s : State) (k : Kind) : (s.raise k).mem = s.mem := rfl
@[simp] theorem raise_inbox (s : State) (k : Kind) : (s.raise k).inbox = s.inbox := rfl
@[simp] theorem raise_rdata (s : State) (k : Kind) : (s.raise k).rdata = s.rdata := rfl
@[simp] theorem raise_leases (s : State) (k : Kind) : (s.raise k).leases = s.leases := rfl
@[simp] theorem raise_issued (s : State) (k : Kind) : (s.raise k).issued = s.issued := rfl
@[simp] theorem raise_completed (s : State) (k : Kind) : (s.raise k).completed = s.completed := rfl
@[simp] theorem raise_hookCalls (s : State) (k : Kind) : (s.raise k).hookCalls = s.hookCalls + 1 := rfl
@[simp] theorem raise_free (s : State) (k : Kind) : (s.raise k).free = s.free + 1 := rfl

/-! ### The start of a stream command (R132, R136) -/

@[simp] theorem startStream_cfg (s : State) : (s.startStream).cfg = s.cfg := rfl
@[simp] theorem startStream_op (s : State) : (s.startStream).op = s.op := rfl
@[simp] theorem startStream_lenv (s : State) : (s.startStream).lenv = s.lenv := rfl
@[simp] theorem startStream_src (s : State) : (s.startStream).src = s.src := rfl
@[simp] theorem startStream_len (s : State) : (s.startStream).len = s.len := rfl
@[simp] theorem startStream_dst (s : State) : (s.startStream).dst = s.dst := rfl
@[simp] theorem startStream_cap (s : State) : (s.startStream).cap = s.cap := rfl
@[simp] theorem startStream_rlen (s : State) : (s.startStream).rlen = s.rlen := rfl
@[simp] theorem startStream_busy (s : State) : (s.startStream).busy = true := rfl
@[simp] theorem startStream_done (s : State) : (s.startStream).done = s.done := rfl
@[simp] theorem startStream_viol (s : State) : (s.startStream).viol = s.viol := rfl
@[simp] theorem startStream_halt (s : State) : (s.startStream).halt = s.halt := rfl
@[simp] theorem startStream_cause (s : State) : (s.startStream).cause = s.cause := rfl
@[simp] theorem startStream_rpos (s : State) : (s.startStream).rpos = 0 := rfl
@[simp] theorem startStream_wpos (s : State) : (s.startStream).wpos = 0 := rfl
@[simp] theorem startStream_mem (s : State) : (s.startStream).mem = s.mem := rfl
@[simp] theorem startStream_inbox (s : State) : (s.startStream).inbox = s.inbox := rfl
@[simp] theorem startStream_rdata (s : State) : (s.startStream).rdata = s.rdata := rfl
@[simp] theorem startStream_leases (s : State) : (s.startStream).leases = s.leases := rfl
@[simp] theorem startStream_issued (s : State) : (s.startStream).issued = s.issued := rfl
@[simp] theorem startStream_completed (s : State) : (s.startStream).completed = s.completed := rfl
@[simp] theorem startStream_hookCalls (s : State) : (s.startStream).hookCalls = s.hookCalls := rfl
@[simp] theorem startStream_free (s : State) : (s.startStream).free = s.free := rfl

/-! ### The advance of the iterator (R24, R25) -/

@[simp] theorem advance_cfg (s : State) (r w : Nat) : (s.advance r w).cfg = s.cfg := rfl
@[simp] theorem advance_op (s : State) (r w : Nat) : (s.advance r w).op = s.op := rfl
@[simp] theorem advance_lenv (s : State) (r w : Nat) : (s.advance r w).lenv = s.lenv := rfl
@[simp] theorem advance_src (s : State) (r w : Nat) : (s.advance r w).src = s.src := rfl
@[simp] theorem advance_len (s : State) (r w : Nat) : (s.advance r w).len = s.len := rfl
@[simp] theorem advance_dst (s : State) (r w : Nat) : (s.advance r w).dst = s.dst := rfl
@[simp] theorem advance_cap (s : State) (r w : Nat) : (s.advance r w).cap = s.cap := rfl
@[simp] theorem advance_rlen (s : State) (r w : Nat) : (s.advance r w).rlen = s.rlen := rfl
@[simp] theorem advance_busy (s : State) (r w : Nat) : (s.advance r w).busy = s.busy := rfl
@[simp] theorem advance_done (s : State) (r w : Nat) : (s.advance r w).done = s.done := rfl
@[simp] theorem advance_viol (s : State) (r w : Nat) : (s.advance r w).viol = s.viol := rfl
@[simp] theorem advance_halt (s : State) (r w : Nat) : (s.advance r w).halt = s.halt := rfl
@[simp] theorem advance_cause (s : State) (r w : Nat) : (s.advance r w).cause = s.cause := rfl
@[simp] theorem advance_rpos (s : State) (r w : Nat) : (s.advance r w).rpos = s.rpos + r := rfl
@[simp] theorem advance_wpos (s : State) (r w : Nat) : (s.advance r w).wpos = s.wpos + w := rfl
@[simp] theorem advance_mem (s : State) (r w : Nat) : (s.advance r w).mem = s.mem := rfl
@[simp] theorem advance_inbox (s : State) (r w : Nat) : (s.advance r w).inbox = s.inbox := rfl
@[simp] theorem advance_rdata (s : State) (r w : Nat) : (s.advance r w).rdata = s.rdata := rfl
@[simp] theorem advance_leases (s : State) (r w : Nat) : (s.advance r w).leases = s.leases := rfl
@[simp] theorem advance_issued (s : State) (r w : Nat) : (s.advance r w).issued = s.issued := rfl
@[simp] theorem advance_completed (s : State) (r w : Nat) : (s.advance r w).completed = s.completed := rfl
@[simp] theorem advance_hookCalls (s : State) (r w : Nat) : (s.advance r w).hookCalls = s.hookCalls := rfl
@[simp] theorem advance_free (s : State) (r w : Nat) : (s.advance r w).free = s.free := rfl

/-! ### MemWrite (R43) -/

@[simp] theorem store_cfg (s : State) (a : Nat) (bs : List Byte) : (s.store a bs).cfg = s.cfg := rfl
@[simp] theorem store_op (s : State) (a : Nat) (bs : List Byte) : (s.store a bs).op = s.op := rfl
@[simp] theorem store_lenv (s : State) (a : Nat) (bs : List Byte) : (s.store a bs).lenv = s.lenv := rfl
@[simp] theorem store_src (s : State) (a : Nat) (bs : List Byte) : (s.store a bs).src = s.src := rfl
@[simp] theorem store_len (s : State) (a : Nat) (bs : List Byte) : (s.store a bs).len = s.len := rfl
@[simp] theorem store_dst (s : State) (a : Nat) (bs : List Byte) : (s.store a bs).dst = s.dst := rfl
@[simp] theorem store_cap (s : State) (a : Nat) (bs : List Byte) : (s.store a bs).cap = s.cap := rfl
@[simp] theorem store_rlen (s : State) (a : Nat) (bs : List Byte) : (s.store a bs).rlen = s.rlen := rfl
@[simp] theorem store_busy (s : State) (a : Nat) (bs : List Byte) : (s.store a bs).busy = s.busy := rfl
@[simp] theorem store_done (s : State) (a : Nat) (bs : List Byte) : (s.store a bs).done = s.done := rfl
@[simp] theorem store_viol (s : State) (a : Nat) (bs : List Byte) : (s.store a bs).viol = s.viol := rfl
@[simp] theorem store_halt (s : State) (a : Nat) (bs : List Byte) : (s.store a bs).halt = s.halt := rfl
@[simp] theorem store_cause (s : State) (a : Nat) (bs : List Byte) : (s.store a bs).cause = s.cause := rfl
@[simp] theorem store_rpos (s : State) (a : Nat) (bs : List Byte) : (s.store a bs).rpos = s.rpos := rfl
@[simp] theorem store_wpos (s : State) (a : Nat) (bs : List Byte) : (s.store a bs).wpos = s.wpos := rfl
@[simp] theorem store_mem (s : State) (a : Nat) (bs : List Byte) : (s.store a bs).mem = Memory.write s.mem a bs := rfl
@[simp] theorem store_inbox (s : State) (a : Nat) (bs : List Byte) : (s.store a bs).inbox = s.inbox := rfl
@[simp] theorem store_rdata (s : State) (a : Nat) (bs : List Byte) : (s.store a bs).rdata = s.rdata := rfl
@[simp] theorem store_leases (s : State) (a : Nat) (bs : List Byte) : (s.store a bs).leases = s.leases := rfl
@[simp] theorem store_issued (s : State) (a : Nat) (bs : List Byte) : (s.store a bs).issued = s.issued := rfl
@[simp] theorem store_completed (s : State) (a : Nat) (bs : List Byte) : (s.store a bs).completed = s.completed := rfl
@[simp] theorem store_hookCalls (s : State) (a : Nat) (bs : List Byte) : (s.store a bs).hookCalls = s.hookCalls := rfl
@[simp] theorem store_free (s : State) (a : Nat) (bs : List Byte) : (s.store a bs).free = s.free := rfl

/-! ### MemHavoc (R43) -/

@[simp] theorem havoc_cfg (s : State) (a n : Nat) : (s.havoc a n).cfg = s.cfg := rfl
@[simp] theorem havoc_op (s : State) (a n : Nat) : (s.havoc a n).op = s.op := rfl
@[simp] theorem havoc_lenv (s : State) (a n : Nat) : (s.havoc a n).lenv = s.lenv := rfl
@[simp] theorem havoc_src (s : State) (a n : Nat) : (s.havoc a n).src = s.src := rfl
@[simp] theorem havoc_len (s : State) (a n : Nat) : (s.havoc a n).len = s.len := rfl
@[simp] theorem havoc_dst (s : State) (a n : Nat) : (s.havoc a n).dst = s.dst := rfl
@[simp] theorem havoc_cap (s : State) (a n : Nat) : (s.havoc a n).cap = s.cap := rfl
@[simp] theorem havoc_rlen (s : State) (a n : Nat) : (s.havoc a n).rlen = s.rlen := rfl
@[simp] theorem havoc_busy (s : State) (a n : Nat) : (s.havoc a n).busy = s.busy := rfl
@[simp] theorem havoc_done (s : State) (a n : Nat) : (s.havoc a n).done = s.done := rfl
@[simp] theorem havoc_viol (s : State) (a n : Nat) : (s.havoc a n).viol = s.viol := rfl
@[simp] theorem havoc_halt (s : State) (a n : Nat) : (s.havoc a n).halt = s.halt := rfl
@[simp] theorem havoc_cause (s : State) (a n : Nat) : (s.havoc a n).cause = s.cause := rfl
@[simp] theorem havoc_rpos (s : State) (a n : Nat) : (s.havoc a n).rpos = s.rpos := rfl
@[simp] theorem havoc_wpos (s : State) (a n : Nat) : (s.havoc a n).wpos = s.wpos := rfl
@[simp] theorem havoc_mem (s : State) (a n : Nat) : (s.havoc a n).mem = Memory.havoc s.mem a n s.free := rfl
@[simp] theorem havoc_inbox (s : State) (a n : Nat) : (s.havoc a n).inbox = s.inbox := rfl
@[simp] theorem havoc_rdata (s : State) (a n : Nat) : (s.havoc a n).rdata = s.rdata := rfl
@[simp] theorem havoc_leases (s : State) (a n : Nat) : (s.havoc a n).leases = s.leases := rfl
@[simp] theorem havoc_issued (s : State) (a n : Nat) : (s.havoc a n).issued = s.issued := rfl
@[simp] theorem havoc_completed (s : State) (a n : Nat) : (s.havoc a n).completed = s.completed := rfl
@[simp] theorem havoc_hookCalls (s : State) (a n : Nat) : (s.havoc a n).hookCalls = s.hookCalls := rfl
@[simp] theorem havoc_free (s : State) (a n : Nat) : (s.havoc a n).free = s.free + n := rfl

/-! ### The write of RLEN (R17) -/

@[simp] theorem setRlen_cfg (s : State) (n : Nat) : (s.setRlen n).cfg = s.cfg := rfl
@[simp] theorem setRlen_op (s : State) (n : Nat) : (s.setRlen n).op = s.op := rfl
@[simp] theorem setRlen_lenv (s : State) (n : Nat) : (s.setRlen n).lenv = s.lenv := rfl
@[simp] theorem setRlen_src (s : State) (n : Nat) : (s.setRlen n).src = s.src := rfl
@[simp] theorem setRlen_len (s : State) (n : Nat) : (s.setRlen n).len = s.len := rfl
@[simp] theorem setRlen_dst (s : State) (n : Nat) : (s.setRlen n).dst = s.dst := rfl
@[simp] theorem setRlen_cap (s : State) (n : Nat) : (s.setRlen n).cap = s.cap := rfl
@[simp] theorem setRlen_rlen (s : State) (n : Nat) : (s.setRlen n).rlen = .holding n := rfl
@[simp] theorem setRlen_busy (s : State) (n : Nat) : (s.setRlen n).busy = s.busy := rfl
@[simp] theorem setRlen_done (s : State) (n : Nat) : (s.setRlen n).done = s.done := rfl
@[simp] theorem setRlen_viol (s : State) (n : Nat) : (s.setRlen n).viol = s.viol := rfl
@[simp] theorem setRlen_halt (s : State) (n : Nat) : (s.setRlen n).halt = s.halt := rfl
@[simp] theorem setRlen_cause (s : State) (n : Nat) : (s.setRlen n).cause = s.cause := rfl
@[simp] theorem setRlen_rpos (s : State) (n : Nat) : (s.setRlen n).rpos = s.rpos := rfl
@[simp] theorem setRlen_wpos (s : State) (n : Nat) : (s.setRlen n).wpos = s.wpos := rfl
@[simp] theorem setRlen_mem (s : State) (n : Nat) : (s.setRlen n).mem = s.mem := rfl
@[simp] theorem setRlen_inbox (s : State) (n : Nat) : (s.setRlen n).inbox = s.inbox := rfl
@[simp] theorem setRlen_rdata (s : State) (n : Nat) : (s.setRlen n).rdata = s.rdata := rfl
@[simp] theorem setRlen_leases (s : State) (n : Nat) : (s.setRlen n).leases = s.leases := rfl
@[simp] theorem setRlen_issued (s : State) (n : Nat) : (s.setRlen n).issued = s.issued := rfl
@[simp] theorem setRlen_completed (s : State) (n : Nat) : (s.setRlen n).completed = s.completed := rfl
@[simp] theorem setRlen_hookCalls (s : State) (n : Nat) : (s.setRlen n).hookCalls = s.hookCalls := rfl
@[simp] theorem setRlen_free (s : State) (n : Nat) : (s.setRlen n).free = s.free := rfl

/-! ### Successful completion (R20) -/

@[simp] theorem complete_cfg (s : State) : (s.complete).cfg = s.cfg := rfl
@[simp] theorem complete_op (s : State) : (s.complete).op = s.op := rfl
@[simp] theorem complete_lenv (s : State) : (s.complete).lenv = s.lenv := rfl
@[simp] theorem complete_src (s : State) : (s.complete).src = s.src := rfl
@[simp] theorem complete_len (s : State) : (s.complete).len = s.len := rfl
@[simp] theorem complete_dst (s : State) : (s.complete).dst = s.dst := rfl
@[simp] theorem complete_cap (s : State) : (s.complete).cap = s.cap := rfl
@[simp] theorem complete_rlen (s : State) : (s.complete).rlen = s.rlen := rfl
@[simp] theorem complete_busy (s : State) : (s.complete).busy = false := rfl
@[simp] theorem complete_done (s : State) : (s.complete).done = true := rfl
@[simp] theorem complete_viol (s : State) : (s.complete).viol = s.viol := rfl
@[simp] theorem complete_halt (s : State) : (s.complete).halt = s.halt := rfl
@[simp] theorem complete_cause (s : State) : (s.complete).cause = s.cause := rfl
@[simp] theorem complete_rpos (s : State) : (s.complete).rpos = s.rpos := rfl
@[simp] theorem complete_wpos (s : State) : (s.complete).wpos = s.wpos := rfl
@[simp] theorem complete_mem (s : State) : (s.complete).mem = s.mem := rfl
@[simp] theorem complete_inbox (s : State) : (s.complete).inbox = s.inbox := rfl
@[simp] theorem complete_rdata (s : State) : (s.complete).rdata = s.rdata := rfl
@[simp] theorem complete_leases (s : State) : (s.complete).leases = s.leases := rfl
@[simp] theorem complete_issued (s : State) : (s.complete).issued = s.issued := rfl
@[simp] theorem complete_completed (s : State) : (s.complete).completed = s.completed + 1 := rfl
@[simp] theorem complete_hookCalls (s : State) : (s.complete).hookCalls = s.hookCalls := rfl
@[simp] theorem complete_free (s : State) : (s.complete).free = s.free := rfl

/-! ### A host read (R31) -/

@[simp] theorem hostRead_cfg (s : State) (r : Nat) : (s.hostRead r).cfg = s.cfg := rfl
@[simp] theorem hostRead_op (s : State) (r : Nat) : (s.hostRead r).op = s.op := rfl
@[simp] theorem hostRead_lenv (s : State) (r : Nat) : (s.hostRead r).lenv = s.lenv := rfl
@[simp] theorem hostRead_src (s : State) (r : Nat) : (s.hostRead r).src = s.src := rfl
@[simp] theorem hostRead_len (s : State) (r : Nat) : (s.hostRead r).len = s.len := rfl
@[simp] theorem hostRead_dst (s : State) (r : Nat) : (s.hostRead r).dst = s.dst := rfl
@[simp] theorem hostRead_cap (s : State) (r : Nat) : (s.hostRead r).cap = s.cap := rfl
@[simp] theorem hostRead_rlen (s : State) (r : Nat) : (s.hostRead r).rlen = s.rlen := rfl
@[simp] theorem hostRead_busy (s : State) (r : Nat) : (s.hostRead r).busy = s.busy := rfl
@[simp] theorem hostRead_done (s : State) (r : Nat) : (s.hostRead r).done = s.done := rfl
@[simp] theorem hostRead_viol (s : State) (r : Nat) : (s.hostRead r).viol = s.viol := rfl
@[simp] theorem hostRead_halt (s : State) (r : Nat) : (s.hostRead r).halt = s.halt := rfl
@[simp] theorem hostRead_cause (s : State) (r : Nat) : (s.hostRead r).cause = s.cause := rfl
@[simp] theorem hostRead_rpos (s : State) (r : Nat) : (s.hostRead r).rpos = s.rpos := rfl
@[simp] theorem hostRead_wpos (s : State) (r : Nat) : (s.hostRead r).wpos = s.wpos := rfl
@[simp] theorem hostRead_mem (s : State) (r : Nat) : (s.hostRead r).mem = s.mem := rfl
@[simp] theorem hostRead_inbox (s : State) (r : Nat) : (s.hostRead r).inbox = s.inbox := rfl
@[simp] theorem hostRead_rdata (s : State) (r : Nat) : (s.hostRead r).rdata = s.readReg r := rfl
@[simp] theorem hostRead_leases (s : State) (r : Nat) : (s.hostRead r).leases = if r = 6 ∧ s.busy = false then [] else s.leases := rfl
@[simp] theorem hostRead_issued (s : State) (r : Nat) : (s.hostRead r).issued = s.issued := rfl
@[simp] theorem hostRead_completed (s : State) (r : Nat) : (s.hostRead r).completed = s.completed := rfl
@[simp] theorem hostRead_hookCalls (s : State) (r : Nat) : (s.hostRead r).hookCalls = s.hookCalls := rfl
@[simp] theorem hostRead_free (s : State) (r : Nat) : (s.hostRead r).free = s.free + 1 := rfl

/-! ### Reset (R33, R190) -/

@[simp] theorem resetUnit_cfg (s : State) : (s.resetUnit).cfg = s.cfg := rfl
@[simp] theorem resetUnit_op (s : State) : (s.resetUnit).op = 0#2 := rfl
@[simp] theorem resetUnit_lenv (s : State) : (s.resetUnit).lenv = false := rfl
@[simp] theorem resetUnit_src (s : State) : (s.resetUnit).src = .noValue := rfl
@[simp] theorem resetUnit_len (s : State) : (s.resetUnit).len = .noValue := rfl
@[simp] theorem resetUnit_dst (s : State) : (s.resetUnit).dst = .noValue := rfl
@[simp] theorem resetUnit_cap (s : State) : (s.resetUnit).cap = .noValue := rfl
@[simp] theorem resetUnit_rlen (s : State) : (s.resetUnit).rlen = .noValue := rfl
@[simp] theorem resetUnit_busy (s : State) : (s.resetUnit).busy = false := rfl
@[simp] theorem resetUnit_done (s : State) : (s.resetUnit).done = false := rfl
@[simp] theorem resetUnit_viol (s : State) : (s.resetUnit).viol = false := rfl
@[simp] theorem resetUnit_halt (s : State) : (s.resetUnit).halt = false := rfl
@[simp] theorem resetUnit_cause (s : State) : (s.resetUnit).cause = none := rfl
@[simp] theorem resetUnit_rpos (s : State) : (s.resetUnit).rpos = 0 := rfl
@[simp] theorem resetUnit_wpos (s : State) : (s.resetUnit).wpos = 0 := rfl
@[simp] theorem resetUnit_mem (s : State) : (s.resetUnit).mem = s.mem := rfl
@[simp] theorem resetUnit_inbox (s : State) : (s.resetUnit).inbox = s.inbox := rfl
@[simp] theorem resetUnit_rdata (s : State) : (s.resetUnit).rdata = s.rdata := rfl
@[simp] theorem resetUnit_leases (s : State) : (s.resetUnit).leases = s.leases := rfl
@[simp] theorem resetUnit_issued (s : State) : (s.resetUnit).issued = 0 := rfl
@[simp] theorem resetUnit_completed (s : State) : (s.resetUnit).completed = 0 := rfl
@[simp] theorem resetUnit_hookCalls (s : State) : (s.resetUnit).hookCalls = s.hookCalls := rfl
@[simp] theorem resetUnit_free (s : State) : (s.resetUnit).free = s.free := rfl

/-! ### The host's writes of the operand registers (R192) -/

@[simp] theorem operandsWritten_cfg (s : State) : (s.operandsWritten).cfg = s.cfg := rfl
@[simp] theorem operandsWritten_op (s : State) : (s.operandsWritten).op = s.op := rfl
@[simp] theorem operandsWritten_lenv (s : State) : (s.operandsWritten).lenv = s.lenv := rfl
@[simp] theorem operandsWritten_src (s : State) : (s.operandsWritten).src = .holding s.src.val := rfl
@[simp] theorem operandsWritten_len (s : State) : (s.operandsWritten).len = .holding s.len.val := rfl
@[simp] theorem operandsWritten_dst (s : State) : (s.operandsWritten).dst = .holding s.dst.val := rfl
@[simp] theorem operandsWritten_cap (s : State) : (s.operandsWritten).cap = .holding s.cap.val := rfl
@[simp] theorem operandsWritten_rlen (s : State) : (s.operandsWritten).rlen = s.rlen := rfl
@[simp] theorem operandsWritten_busy (s : State) : (s.operandsWritten).busy = s.busy := rfl
@[simp] theorem operandsWritten_done (s : State) : (s.operandsWritten).done = s.done := rfl
@[simp] theorem operandsWritten_viol (s : State) : (s.operandsWritten).viol = s.viol := rfl
@[simp] theorem operandsWritten_halt (s : State) : (s.operandsWritten).halt = s.halt := rfl
@[simp] theorem operandsWritten_cause (s : State) : (s.operandsWritten).cause = s.cause := rfl
@[simp] theorem operandsWritten_rpos (s : State) : (s.operandsWritten).rpos = s.rpos := rfl
@[simp] theorem operandsWritten_wpos (s : State) : (s.operandsWritten).wpos = s.wpos := rfl
@[simp] theorem operandsWritten_mem (s : State) : (s.operandsWritten).mem = s.mem := rfl
@[simp] theorem operandsWritten_inbox (s : State) : (s.operandsWritten).inbox = s.inbox := rfl
@[simp] theorem operandsWritten_rdata (s : State) : (s.operandsWritten).rdata = s.rdata := rfl
@[simp] theorem operandsWritten_leases (s : State) : (s.operandsWritten).leases = s.leases := rfl
@[simp] theorem operandsWritten_issued (s : State) : (s.operandsWritten).issued = s.issued := rfl
@[simp] theorem operandsWritten_completed (s : State) : (s.operandsWritten).completed = s.completed := rfl
@[simp] theorem operandsWritten_hookCalls (s : State) : (s.operandsWritten).hookCalls = s.hookCalls := rfl
@[simp] theorem operandsWritten_free (s : State) : (s.operandsWritten).free = s.free := rfl

/-! ### Writes of the operand registers (R13 to R16) -/

@[simp] theorem drawn_cfg (s : State) (w v : Nat) : (s.drawn w v).cfg = s.cfg := by unfold State.drawn; split <;> rfl
@[simp] theorem drawn_op (s : State) (w v : Nat) : (s.drawn w v).op = s.op := by unfold State.drawn; split <;> rfl
@[simp] theorem drawn_lenv (s : State) (w v : Nat) : (s.drawn w v).lenv = s.lenv := by unfold State.drawn; split <;> rfl
@[simp] theorem drawn_src (s : State) (w v : Nat) : (s.drawn w v).src = s.src := by unfold State.drawn; split <;> rfl
@[simp] theorem drawn_len (s : State) (w v : Nat) : (s.drawn w v).len = s.len := by unfold State.drawn; split <;> rfl
@[simp] theorem drawn_dst (s : State) (w v : Nat) : (s.drawn w v).dst = s.dst := by unfold State.drawn; split <;> rfl
@[simp] theorem drawn_cap (s : State) (w v : Nat) : (s.drawn w v).cap = s.cap := by unfold State.drawn; split <;> rfl
@[simp] theorem drawn_rlen (s : State) (w v : Nat) : (s.drawn w v).rlen = s.rlen := by unfold State.drawn; split <;> rfl
@[simp] theorem drawn_busy (s : State) (w v : Nat) : (s.drawn w v).busy = s.busy := by unfold State.drawn; split <;> rfl
@[simp] theorem drawn_done (s : State) (w v : Nat) : (s.drawn w v).done = s.done := by unfold State.drawn; split <;> rfl
@[simp] theorem drawn_viol (s : State) (w v : Nat) : (s.drawn w v).viol = s.viol := by unfold State.drawn; split <;> rfl
@[simp] theorem drawn_halt (s : State) (w v : Nat) : (s.drawn w v).halt = s.halt := by unfold State.drawn; split <;> rfl
@[simp] theorem drawn_cause (s : State) (w v : Nat) : (s.drawn w v).cause = s.cause := by unfold State.drawn; split <;> rfl
@[simp] theorem drawn_rpos (s : State) (w v : Nat) : (s.drawn w v).rpos = s.rpos := by unfold State.drawn; split <;> rfl
@[simp] theorem drawn_wpos (s : State) (w v : Nat) : (s.drawn w v).wpos = s.wpos := by unfold State.drawn; split <;> rfl
@[simp] theorem drawn_mem (s : State) (w v : Nat) : (s.drawn w v).mem = s.mem := by unfold State.drawn; split <;> rfl
@[simp] theorem drawn_inbox (s : State) (w v : Nat) : (s.drawn w v).inbox = s.inbox := by unfold State.drawn; split <;> rfl
@[simp] theorem drawn_rdata (s : State) (w v : Nat) : (s.drawn w v).rdata = s.rdata := by unfold State.drawn; split <;> rfl
@[simp] theorem drawn_leases (s : State) (w v : Nat) : (s.drawn w v).leases = s.leases := by unfold State.drawn; split <;> rfl
@[simp] theorem drawn_issued (s : State) (w v : Nat) : (s.drawn w v).issued = s.issued := by unfold State.drawn; split <;> rfl
@[simp] theorem drawn_completed (s : State) (w v : Nat) : (s.drawn w v).completed = s.completed := by unfold State.drawn; split <;> rfl
@[simp] theorem drawn_hookCalls (s : State) (w v : Nat) : (s.drawn w v).hookCalls = s.hookCalls := by unfold State.drawn; split <;> rfl

@[simp] theorem setOperand_1_cfg (s : State) (v : Nat) : (s.setOperand 1 v).cfg = s.cfg := rfl
@[simp] theorem setOperand_1_op (s : State) (v : Nat) : (s.setOperand 1 v).op = s.op := rfl
@[simp] theorem setOperand_1_lenv (s : State) (v : Nat) : (s.setOperand 1 v).lenv = s.lenv := rfl
@[simp] theorem setOperand_1_src (s : State) (v : Nat) : (s.setOperand 1 v).src = .holding v := rfl
@[simp] theorem setOperand_1_len (s : State) (v : Nat) : (s.setOperand 1 v).len = s.len := rfl
@[simp] theorem setOperand_1_dst (s : State) (v : Nat) : (s.setOperand 1 v).dst = s.dst := rfl
@[simp] theorem setOperand_1_cap (s : State) (v : Nat) : (s.setOperand 1 v).cap = s.cap := rfl
@[simp] theorem setOperand_1_rlen (s : State) (v : Nat) : (s.setOperand 1 v).rlen = s.rlen := rfl
@[simp] theorem setOperand_1_busy (s : State) (v : Nat) : (s.setOperand 1 v).busy = s.busy := rfl
@[simp] theorem setOperand_1_done (s : State) (v : Nat) : (s.setOperand 1 v).done = s.done := rfl
@[simp] theorem setOperand_1_viol (s : State) (v : Nat) : (s.setOperand 1 v).viol = s.viol := rfl
@[simp] theorem setOperand_1_halt (s : State) (v : Nat) : (s.setOperand 1 v).halt = s.halt := rfl
@[simp] theorem setOperand_1_cause (s : State) (v : Nat) : (s.setOperand 1 v).cause = s.cause := rfl
@[simp] theorem setOperand_1_rpos (s : State) (v : Nat) : (s.setOperand 1 v).rpos = s.rpos := rfl
@[simp] theorem setOperand_1_wpos (s : State) (v : Nat) : (s.setOperand 1 v).wpos = s.wpos := rfl
@[simp] theorem setOperand_1_mem (s : State) (v : Nat) : (s.setOperand 1 v).mem = s.mem := rfl
@[simp] theorem setOperand_1_inbox (s : State) (v : Nat) : (s.setOperand 1 v).inbox = s.inbox := rfl
@[simp] theorem setOperand_1_rdata (s : State) (v : Nat) : (s.setOperand 1 v).rdata = s.rdata := rfl
@[simp] theorem setOperand_1_leases (s : State) (v : Nat) : (s.setOperand 1 v).leases = s.leases := rfl
@[simp] theorem setOperand_1_issued (s : State) (v : Nat) : (s.setOperand 1 v).issued = s.issued := rfl
@[simp] theorem setOperand_1_completed (s : State) (v : Nat) : (s.setOperand 1 v).completed = s.completed := rfl
@[simp] theorem setOperand_1_hookCalls (s : State) (v : Nat) : (s.setOperand 1 v).hookCalls = s.hookCalls := rfl
@[simp] theorem setOperand_1_free (s : State) (v : Nat) : (s.setOperand 1 v).free = s.free := rfl

@[simp] theorem setOperand_2_cfg (s : State) (v : Nat) : (s.setOperand 2 v).cfg = s.cfg := rfl
@[simp] theorem setOperand_2_op (s : State) (v : Nat) : (s.setOperand 2 v).op = s.op := rfl
@[simp] theorem setOperand_2_lenv (s : State) (v : Nat) : (s.setOperand 2 v).lenv = s.lenv := rfl
@[simp] theorem setOperand_2_src (s : State) (v : Nat) : (s.setOperand 2 v).src = s.src := rfl
@[simp] theorem setOperand_2_len (s : State) (v : Nat) : (s.setOperand 2 v).len = .holding v := rfl
@[simp] theorem setOperand_2_dst (s : State) (v : Nat) : (s.setOperand 2 v).dst = s.dst := rfl
@[simp] theorem setOperand_2_cap (s : State) (v : Nat) : (s.setOperand 2 v).cap = s.cap := rfl
@[simp] theorem setOperand_2_rlen (s : State) (v : Nat) : (s.setOperand 2 v).rlen = s.rlen := rfl
@[simp] theorem setOperand_2_busy (s : State) (v : Nat) : (s.setOperand 2 v).busy = s.busy := rfl
@[simp] theorem setOperand_2_done (s : State) (v : Nat) : (s.setOperand 2 v).done = s.done := rfl
@[simp] theorem setOperand_2_viol (s : State) (v : Nat) : (s.setOperand 2 v).viol = s.viol := rfl
@[simp] theorem setOperand_2_halt (s : State) (v : Nat) : (s.setOperand 2 v).halt = s.halt := rfl
@[simp] theorem setOperand_2_cause (s : State) (v : Nat) : (s.setOperand 2 v).cause = s.cause := rfl
@[simp] theorem setOperand_2_rpos (s : State) (v : Nat) : (s.setOperand 2 v).rpos = s.rpos := rfl
@[simp] theorem setOperand_2_wpos (s : State) (v : Nat) : (s.setOperand 2 v).wpos = s.wpos := rfl
@[simp] theorem setOperand_2_mem (s : State) (v : Nat) : (s.setOperand 2 v).mem = s.mem := rfl
@[simp] theorem setOperand_2_inbox (s : State) (v : Nat) : (s.setOperand 2 v).inbox = s.inbox := rfl
@[simp] theorem setOperand_2_rdata (s : State) (v : Nat) : (s.setOperand 2 v).rdata = s.rdata := rfl
@[simp] theorem setOperand_2_leases (s : State) (v : Nat) : (s.setOperand 2 v).leases = s.leases := rfl
@[simp] theorem setOperand_2_issued (s : State) (v : Nat) : (s.setOperand 2 v).issued = s.issued := rfl
@[simp] theorem setOperand_2_completed (s : State) (v : Nat) : (s.setOperand 2 v).completed = s.completed := rfl
@[simp] theorem setOperand_2_hookCalls (s : State) (v : Nat) : (s.setOperand 2 v).hookCalls = s.hookCalls := rfl
@[simp] theorem setOperand_2_free (s : State) (v : Nat) : (s.setOperand 2 v).free = s.free := rfl

@[simp] theorem setOperand_3_cfg (s : State) (v : Nat) : (s.setOperand 3 v).cfg = s.cfg := rfl
@[simp] theorem setOperand_3_op (s : State) (v : Nat) : (s.setOperand 3 v).op = s.op := rfl
@[simp] theorem setOperand_3_lenv (s : State) (v : Nat) : (s.setOperand 3 v).lenv = s.lenv := rfl
@[simp] theorem setOperand_3_src (s : State) (v : Nat) : (s.setOperand 3 v).src = s.src := rfl
@[simp] theorem setOperand_3_len (s : State) (v : Nat) : (s.setOperand 3 v).len = s.len := rfl
@[simp] theorem setOperand_3_dst (s : State) (v : Nat) : (s.setOperand 3 v).dst = .holding v := rfl
@[simp] theorem setOperand_3_cap (s : State) (v : Nat) : (s.setOperand 3 v).cap = s.cap := rfl
@[simp] theorem setOperand_3_rlen (s : State) (v : Nat) : (s.setOperand 3 v).rlen = s.rlen := rfl
@[simp] theorem setOperand_3_busy (s : State) (v : Nat) : (s.setOperand 3 v).busy = s.busy := rfl
@[simp] theorem setOperand_3_done (s : State) (v : Nat) : (s.setOperand 3 v).done = s.done := rfl
@[simp] theorem setOperand_3_viol (s : State) (v : Nat) : (s.setOperand 3 v).viol = s.viol := rfl
@[simp] theorem setOperand_3_halt (s : State) (v : Nat) : (s.setOperand 3 v).halt = s.halt := rfl
@[simp] theorem setOperand_3_cause (s : State) (v : Nat) : (s.setOperand 3 v).cause = s.cause := rfl
@[simp] theorem setOperand_3_rpos (s : State) (v : Nat) : (s.setOperand 3 v).rpos = s.rpos := rfl
@[simp] theorem setOperand_3_wpos (s : State) (v : Nat) : (s.setOperand 3 v).wpos = s.wpos := rfl
@[simp] theorem setOperand_3_mem (s : State) (v : Nat) : (s.setOperand 3 v).mem = s.mem := rfl
@[simp] theorem setOperand_3_inbox (s : State) (v : Nat) : (s.setOperand 3 v).inbox = s.inbox := rfl
@[simp] theorem setOperand_3_rdata (s : State) (v : Nat) : (s.setOperand 3 v).rdata = s.rdata := rfl
@[simp] theorem setOperand_3_leases (s : State) (v : Nat) : (s.setOperand 3 v).leases = s.leases := rfl
@[simp] theorem setOperand_3_issued (s : State) (v : Nat) : (s.setOperand 3 v).issued = s.issued := rfl
@[simp] theorem setOperand_3_completed (s : State) (v : Nat) : (s.setOperand 3 v).completed = s.completed := rfl
@[simp] theorem setOperand_3_hookCalls (s : State) (v : Nat) : (s.setOperand 3 v).hookCalls = s.hookCalls := rfl
@[simp] theorem setOperand_3_free (s : State) (v : Nat) : (s.setOperand 3 v).free = s.free := rfl

@[simp] theorem setOperand_4_cfg (s : State) (v : Nat) : (s.setOperand 4 v).cfg = s.cfg := rfl
@[simp] theorem setOperand_4_op (s : State) (v : Nat) : (s.setOperand 4 v).op = s.op := rfl
@[simp] theorem setOperand_4_lenv (s : State) (v : Nat) : (s.setOperand 4 v).lenv = s.lenv := rfl
@[simp] theorem setOperand_4_src (s : State) (v : Nat) : (s.setOperand 4 v).src = s.src := rfl
@[simp] theorem setOperand_4_len (s : State) (v : Nat) : (s.setOperand 4 v).len = s.len := rfl
@[simp] theorem setOperand_4_dst (s : State) (v : Nat) : (s.setOperand 4 v).dst = s.dst := rfl
@[simp] theorem setOperand_4_cap (s : State) (v : Nat) : (s.setOperand 4 v).cap = .holding v := rfl
@[simp] theorem setOperand_4_rlen (s : State) (v : Nat) : (s.setOperand 4 v).rlen = s.rlen := rfl
@[simp] theorem setOperand_4_busy (s : State) (v : Nat) : (s.setOperand 4 v).busy = s.busy := rfl
@[simp] theorem setOperand_4_done (s : State) (v : Nat) : (s.setOperand 4 v).done = s.done := rfl
@[simp] theorem setOperand_4_viol (s : State) (v : Nat) : (s.setOperand 4 v).viol = s.viol := rfl
@[simp] theorem setOperand_4_halt (s : State) (v : Nat) : (s.setOperand 4 v).halt = s.halt := rfl
@[simp] theorem setOperand_4_cause (s : State) (v : Nat) : (s.setOperand 4 v).cause = s.cause := rfl
@[simp] theorem setOperand_4_rpos (s : State) (v : Nat) : (s.setOperand 4 v).rpos = s.rpos := rfl
@[simp] theorem setOperand_4_wpos (s : State) (v : Nat) : (s.setOperand 4 v).wpos = s.wpos := rfl
@[simp] theorem setOperand_4_mem (s : State) (v : Nat) : (s.setOperand 4 v).mem = s.mem := rfl
@[simp] theorem setOperand_4_inbox (s : State) (v : Nat) : (s.setOperand 4 v).inbox = s.inbox := rfl
@[simp] theorem setOperand_4_rdata (s : State) (v : Nat) : (s.setOperand 4 v).rdata = s.rdata := rfl
@[simp] theorem setOperand_4_leases (s : State) (v : Nat) : (s.setOperand 4 v).leases = s.leases := rfl
@[simp] theorem setOperand_4_issued (s : State) (v : Nat) : (s.setOperand 4 v).issued = s.issued := rfl
@[simp] theorem setOperand_4_completed (s : State) (v : Nat) : (s.setOperand 4 v).completed = s.completed := rfl
@[simp] theorem setOperand_4_hookCalls (s : State) (v : Nat) : (s.setOperand 4 v).hookCalls = s.hookCalls := rfl
@[simp] theorem setOperand_4_free (s : State) (v : Nat) : (s.setOperand 4 v).free = s.free := rfl

@[simp] theorem holding_val (v : Nat) : (Reg.holding v).val = v := rfl
@[simp] theorem holding_held (v : Nat) : (Reg.holding v).held = true := rfl
@[simp] theorem noValue_held : Reg.noValue.held = false := rfl

end Sys2Proof.Machine
end

