-- ==== Sys2Proof/Laws/Ops.lean ====
section
/-! SUPPORT. What each shared operation can do, said once: the checks (R166), the issue of a command (R31, R58), the block
and finish steps (R130), and the turn the inbox calls for. -/

namespace Sys2Proof.Machine

/-! ### The checks -/

@[simp] theorem firstFailing_nil : firstFailing [] = none := rfl

@[simp] theorem firstFailing_cons (b : Bool) (k : Kind) (rest : List (Bool × Kind)) :
    firstFailing ((b, k) :: rest) = if b then some k else firstFailing rest := rfl

/-- No check fails exactly when every one of them passes. -/
theorem firstFailing_none (cs : List (Bool × Kind)) : firstFailing cs = none ↔ ∀ c ∈ cs, c.1 = false := by
  induction cs with
  | nil => simp
  | cons c cs ih =>
    obtain ⟨b, k⟩ := c
    cases b <;> simp [ih]

theorem checked_pass {s : State} {cs : List (Bool × Kind)} (go : State → State) (h : firstFailing cs = none) :
    s.checked cs go = go s := by
  simp [State.checked, h]

theorem checked_fail {s : State} {cs : List (Bool × Kind)} {k : Kind} (go : State → State)
    (h : firstFailing cs = some k) : s.checked cs go = s.raise k := by
  simp [State.checked, h]

/-- A checked body raises a violation or performs its effect. -/
theorem checked_cases (s : State) (cs : List (Bool × Kind)) (go : State → State) :
    (∃ k, firstFailing cs = some k ∧ s.checked cs go = s.raise k) ∨
      (firstFailing cs = none ∧ s.checked cs go = go s) := by
  cases h : firstFailing cs with
  | none => exact .inr ⟨rfl, checked_pass go h⟩
  | some k => exact .inl ⟨k, rfl, checked_fail go h⟩

/-! ### The checks of each command, on the latched state -/

/-- The first failing check of ENCB (R166). -/
theorem encbChecks_first (s : State) (op : BitVec 2) (l : Bool) (w : Lease) :
    firstFailing (encbChecks (s.latch op l w)) =
      if s.src.val = 0 then some .nullArg
      else if s.dst.val = 0 then some .nullArg
      else if s.len.val = 0 then some .degenerate
      else if 3 < s.len.val then some .degenerate
      else if s.cap.val < 4 then some .capacity
      else none := by
  show firstFailing (encbChecks s) = _
  simp only [encbChecks, firstFailing_cons, firstFailing_nil, decide_eq_true_eq, nullAddr]

/-- The first failing argument check of DECB (R166). -/
theorem decbChecks_first (s : State) (op : BitVec 2) (l : Bool) (w : Lease) :
    firstFailing (decbChecks (s.latch op l w)) =
      if s.src.val = 0 then some .nullArg
      else if s.dst.val = 0 then some .nullArg
      else if s.cap.val < 3 then some .capacity
      else none := by
  show firstFailing (decbChecks s) = _
  simp only [decbChecks, firstFailing_cons, firstFailing_nil, decide_eq_true_eq, nullAddr]

/-- The first failing check of ENC (R166). -/
theorem encChecks_first (s : State) (op : BitVec 2) (l : Bool) (w : Lease) :
    firstFailing (encChecks (s.latch op l w)) =
      if s.src.val = 0 then some .nullArg
      else if s.dst.val = 0 then some .nullArg
      else if l = false then some .nullArg
      else if s.cap.val < 4 * ((s.len.val + 2) / 3) + 1 then some .capacity
      else none := by
  show firstFailing (encChecks { s with lenv := l }) = _
  simp only [encChecks, firstFailing_cons, firstFailing_nil, decide_eq_true_eq, nullAddr, Bool.not_eq_true']
  rfl

/-- The first failing issue check of DEC (R166). -/
theorem decChecks_first (s : State) (op : BitVec 2) (l : Bool) (w : Lease) :
    firstFailing (decChecks (s.latch op l w)) =
      if s.src.val = 0 then some .nullArg
      else if s.dst.val = 0 then some .nullArg
      else if l = false then some .nullArg
      else if s.len.val % 4 ≠ 0 then some .malformed
      else none := by
  show firstFailing (decChecks { s with lenv := l }) = _
  simp only [decChecks, firstFailing_cons, firstFailing_nil, decide_eq_true_eq, nullAddr, Bool.not_eq_true']

/-! ### The issue of a command -/

theorem windowsMeet_false (a n b m : Nat) : windowsMeet a n b m = false ↔ NoSharedAddress a n b m := by
  simp only [windowsMeet, NoSharedAddress, decide_eq_false_iff_not]
  constructor
  · intro h x hx
    omega
  · intro h hlt
    exact h (max a b) (by omega)

/-- The issue of a command is refused exactly when R58 gives it no meaning. -/
theorem issueRefusal_none (s : State) (rl : Bool) (n : Nat) : s.issueRefusal rl n = none ↔ Meaningful s rl n := by
  unfold State.issueRefusal
  split
  · rename_i h
    simp only [reduceCtorEq, false_iff]
    rintro ⟨⟨h1, h2, h3⟩, h4, -, -, -⟩
    cases rl <;> simp_all [State.operandsHeld]
  · rename_i hh
    split
    · rename_i h
      simp only [reduceCtorEq, false_iff]
      rintro ⟨-, -, h5, h6, -⟩
      by_cases hs : s.src.val = 0 <;> by_cases hd : s.dst.val = 0 <;>
        simp_all [State.windowsFit, UnitConfig.inSpace, nullAddr]
    · rename_i hf
      split
      · rename_i h
        simp only [reduceCtorEq, false_iff]
        rintro ⟨-, -, -, -, h7⟩
        simp only [State.windowsClash, nullAddr, Bool.and_eq_true, decide_eq_true_eq] at h
        have := (windowsMeet_false _ _ _ _).2 (h7 h.1.1 h.1.2)
        simp_all
      · rename_i hc
        simp only [true_iff]
        simp only [State.operandsHeld, Bool.not_eq_false, Bool.and_eq_true, Bool.or_eq_true, Bool.not_eq_true'] at hh
        simp only [State.windowsFit, UnitConfig.inSpace, nullAddr, Bool.not_eq_false, Bool.and_eq_true, Bool.or_eq_true,
          decide_eq_true_eq] at hf
        refine ⟨⟨hh.1.1.1, hh.1.1.2, hh.1.2⟩, ?_, ?_, ?_, ?_⟩
        · intro hr; rcases hh.2 with h | h
          · simp_all
          · exact h
        · intro hs; exact hf.1.resolve_left hs
        · intro hd; exact hf.2.resolve_left hd
        · intro hs hd
          refine (windowsMeet_false _ _ _ _).1 ?_
          simpa [State.windowsClash, nullAddr, hs, hd] using hc

/-- The issue of a command by an idle unit, where R58 gives it a meaning. -/
theorem issueCommand_runs {s : State} {rl : Bool} {n : Nat} (op : BitVec 2) (lenv : Bool) (body : State → State)
    (hi : Idle s) (hm : Meaningful s rl n) :
    issueCommand op lenv rl n body s = .next (body (s.latch op lenv (s.windows n))) := by
  simp [issueCommand, hi.1, hi.2, (issueRefusal_none s rl n).2 hm]

/-- A write of CTRL while BUSY or HALT is 1 is lost (R31). -/
theorem issueCommand_lost {s : State} (op : BitVec 2) (lenv rl : Bool) (n : Nat) (body : State → State)
    (hb : s.busy = true ∨ s.halt = true) : issueCommand op lenv rl n body s = .next s := by
  rcases hb with h | h <;> simp [issueCommand, h]

/-- Everything an issue that answers a next state can have done. -/
theorem issueCommand_cases {s t : State} {op : BitVec 2} {lenv rl : Bool} {n : Nat} {body : State → State}
    (h : issueCommand op lenv rl n body s = .next t) :
    ((s.busy = true ∨ s.halt = true) ∧ t = s) ∨
      (Idle s ∧ Meaningful s rl n ∧ t = body (s.latch op lenv (s.windows n))) := by
  by_cases hb : s.busy = true ∨ s.halt = true
  · rw [issueCommand_lost op lenv rl n body hb] at h
    exact .inl ⟨hb, by injection h with h; exact h.symm⟩
  · have hi : Idle s := by simpa [Idle] using hb
    right
    simp only [issueCommand, hi.1, hi.2, Bool.or_self, Bool.false_eq_true, if_false] at h
    split at h
    · cases h
    · rename_i hr
      injection h with h
      exact ⟨hi, (issueRefusal_none s rl n).1 hr, h.symm⟩

/-- The issue of each command, over the shared operation. -/
theorem exec_encb (l : Bool) (s : State) : exec (.encb l) s =
    issueCommand 0#2 l true s.len.val (fun t => t.checked (encbChecks t) encbEffect) s := rfl

theorem exec_decb (l : Bool) (s : State) : exec (.decb l) s =
    issueCommand 1#2 l false 4 (fun t => t.checked (decbChecks t) decbEffect) s := rfl

theorem exec_enc (l : Bool) (s : State) : exec (.enc l) s =
    issueCommand 2#2 l true s.len.val (fun t => t.checked (encChecks t) State.startStream) s := rfl

theorem exec_dec (l : Bool) (s : State) : exec (.dec l) s =
    issueCommand 3#2 l true s.len.val (fun t => t.checked (decChecks t) State.startStream) s := rfl

/-- The windows of a command with both references present (R41). -/
theorem windows_present {s : State} (n : Nat) (hs : s.src.val ≠ 0) (hd : s.dst.val ≠ 0) :
    s.windows n = { src := s.src.val, srcLen := n, dst := s.dst.val, dstLen := s.cap.val } := by
  simp [State.windows, nullAddr, hs, hd]

/-! ### The steps of a running stream command -/

/-- Everything a step of a running stream command that answers a next state can have done (R130). -/
theorem streamStep_cases {s t : State} (h : streamStep s = .next t) :
    (s.op = 2#2 ∧ s.rpos < s.len.val ∧ encBlockStep s = .next t) ∨
      (s.op = 2#2 ∧ s.rpos = s.len.val ∧ encFinishStep s = .next t) ∨
      (s.op = 3#2 ∧ s.rpos < s.len.val ∧ decBlockStep s = .next t) ∨
      (s.op = 3#2 ∧ s.rpos = s.len.val ∧ decFinishStep s = .next t) := by
  unfold streamStep at h
  split at h
  · rename_i c; exact .inl ⟨c.1, c.2, h⟩
  · split at h
    · rename_i c; exact .inr (.inl ⟨c.1, c.2, h⟩)
    · split at h
      · rename_i c; exact .inr (.inr (.inl ⟨c.1, c.2, h⟩))
      · split at h
        · rename_i c; exact .inr (.inr (.inr ⟨c.1, c.2, h⟩))
        · cases h

/-- An ENC block step that answers a next state (R133). -/
theorem encBlockStep_cases {s t : State} (h : encBlockStep s = .next t) :
    s.src.val + s.rpos + s.encWindow ≤ 2 ^ s.cfg.aw ∧ s.dst.val + s.wpos + 4 ≤ 2 ^ s.cfg.aw ∧
      t = (s.store (s.dst.val + s.wpos)
        (blockChars (enc24 (rawGroup (Memory.read s.mem (s.src.val + s.rpos) s.encWindow)) s.encWindow))).advance
          s.encWindow 4 := by
  unfold encBlockStep at h
  split at h
  · rename_i c
    simp only [UnitConfig.inSpace, Bool.and_eq_true, decide_eq_true_eq] at c
    injection h with h
    exact ⟨c.1, c.2, h.symm⟩
  · cases h

/-- An ENC finish step that answers a next state (R134). -/
theorem encFinishStep_cases {s t : State} (h : encFinishStep s = .next t) :
    s.dst.val + s.wpos + 1 ≤ 2 ^ s.cfg.aw ∧
      t = ((s.store (s.dst.val + s.wpos) [terminator]).setRlen s.wpos).complete := by
  unfold encFinishStep at h
  split at h
  · rename_i c
    simp only [UnitConfig.inSpace, decide_eq_true_eq] at c
    injection h with h
    exact ⟨c, h.symm⟩
  · cases h

/-- A DEC block step that answers a next state (R137): the capacity guard, a malformed group, or a group stored. -/
theorem decBlockStep_cases {s t : State} (h : decBlockStep s = .next t) :
    (s.cap.val - s.wpos < 3 ∧ t = s.raise .capacity) ∨
      (3 ≤ s.cap.val - s.wpos ∧ s.src.val + s.rpos + 4 ≤ 2 ^ s.cfg.aw ∧ s.dst.val + s.wpos + 3 ≤ 2 ^ s.cfg.aw ∧
        t = decGroup s) := by
  unfold decBlockStep at h
  split at h
  · rename_i c
    injection h with h
    exact .inl ⟨c, h.symm⟩
  · rename_i c
    split at h
    · rename_i d
      simp only [UnitConfig.inSpace, Bool.and_eq_true, decide_eq_true_eq] at d
      injection h with h
      exact .inr ⟨by omega, d.1, d.2, h.symm⟩
    · cases h

/-- What the group of a DEC block step can do (R137): raise MALFORMED, or store its bytes. -/
theorem decGroup_cases (s : State) :
    decGroup s = s.raise .malformed ∨
      ∃ bs n, dec32 (encBlock (Memory.read s.mem (s.src.val + s.rpos) 4)) = some (bs, n) ∧
        ¬ (n < 3 ∧ s.rpos + 4 < s.len.val) ∧
        decGroup s =
          ((s.store (s.dst.val + s.wpos) bs).havoc (s.dst.val + s.wpos + n) (3 - n)).advance 4 n := by
  unfold decGroup
  split
  · exact .inl rfl
  · rename_i bs n hd
    split
    · exact .inl rfl
    · rename_i hn
      exact .inr ⟨bs, n, hd, hn, rfl⟩

/-! ### The block decoder's result -/

/-- A decoded block has 1 to 3 meaningful bytes, as many as it says (R110). -/
theorem dec32_length {q : Block} {bs : List Byte} {n : Nat} (h : dec32 q = some (bs, n)) :
    bs.length = n ∧ 1 ≤ n ∧ n ≤ 3 := by
  unfold dec32 at h
  split at h <;> simp_all [groupBytes] <;> obtain ⟨rfl, rfl⟩ := h <;> simp

/-! ### The unit's turn and the host's actions -/

/-- Everything a turn of the unit that answers a next state can have done. -/
theorem unitTurn_cases {s t : State} (h : unitTurn s = .next t) :
    s.halt = false ∧ ((s.busy = true ∧ streamStep s = .next t) ∨ (s.busy = false ∧ t = s)) := by
  unfold unitTurn at h
  split at h
  · cases h
  · rename_i hh
    split at h
    · rename_i hb; exact ⟨by simpa using hh, .inl ⟨hb, h⟩⟩
    · rename_i hb
      injection h with h
      exact ⟨by simpa using hh, .inr ⟨by simpa using hb, h.symm⟩⟩

/-- What a write puts into a register fits its width. -/
theorem written_lt (s : State) (w v : Nat) : s.written w v < 2 ^ w := by
  unfold State.written
  split
  · assumption
  · exact Nat.mod_lt _ (Nat.two_pow_pos _)

theorem written_of_fits (s : State) {w v : Nat} (h : v < 2 ^ w) : s.written w v = v := if_pos h

theorem drawn_of_fits (s : State) {w v : Nat} (h : v < 2 ^ w) : s.drawn w v = s := if_pos (.inl h)

theorem drawn_of_lost {s : State} (w v : Nat) (h : s.busy = true ∨ s.halt = true) : s.drawn w v = s := if_pos (.inr h)

/-- Taking the value of a write changes nothing but the counter of the free values. -/
theorem drawn_eq (s : State) (w v : Nat) : s.drawn w v = { s with free := (s.drawn w v).free } := by
  unfold State.drawn
  split <;> rfl

/-- Everything a host write of a register other than CTRL can do: nothing, or one operand register of an idle unit holds a
value of its width. -/
theorem hostWrite_cases (r v : Nat) (s : State) :
    hostWrite r v s = s ∨
      (Idle s ∧ ∃ w x f, regWidth s.cfg r = some w ∧ x < 2 ^ w ∧ (v < 2 ^ w → x = v ∧ f = s.free) ∧
        hostWrite r v s = State.setOperand { s with free := f } r x) := by
  unfold hostWrite
  split
  · exact .inl rfl
  · rename_i hb
    cases hw : regWidth s.cfg r with
    | none => exact .inl rfl
    | some w =>
      refine .inr ⟨by simpa [Idle] using hb, w, s.written w v, (s.drawn w v).free, rfl, written_lt s w v, fun h => ?_, ?_⟩
      · rw [written_of_fits s h, drawn_of_fits s h]; exact ⟨rfl, rfl⟩
      · rw [← drawn_eq]

/-- A host memory read that answers a next state. -/
theorem hostMemRead_cases {a : Nat} {s t : State} (h : hostMemRead a s = .next t) :
    a + 1 ≤ 2 ^ s.cfg.aw ∧ s.readBarred a = false ∧ t = { s with rdata := (Memory.readByte s.mem a).toNat } := by
  unfold hostMemRead at h
  split at h
  · cases h
  · rename_i h1
    split at h
    · cases h
    · rename_i h2
      injection h with h
      exact ⟨by simpa [UnitConfig.inSpace] using h1, by simpa using h2, h.symm⟩

/-- A host memory write that answers a next state. -/
theorem hostMemWrite_cases {a : Nat} {b : Byte} {s t : State} (h : hostMemWrite a b s = .next t) :
    a + 1 ≤ 2 ^ s.cfg.aw ∧ s.writeBarred a = false ∧ t = { s with mem := Memory.writeByte s.mem a b } := by
  unfold hostMemWrite at h
  split at h
  · cases h
  · rename_i h1
    split at h
    · cases h
    · rename_i h2
      injection h with h
      exact ⟨by simpa [UnitConfig.inSpace] using h1, by simpa using h2, h.symm⟩

/-- Everything a step that answers a next state can have done, by the host's next action: `rest` are the actions after
it. -/
theorem step_cases {s t : State} (h : step s = .next t) :
    (s.inbox = [] ∧ unitTurn s = .next t) ∨
      ∃ a rest, s.inbox = a :: rest ∧
        match a with
        | .wr r v =>
          if r = 0 then
            exec (decodeByte (BitVec.ofNat 8 (s.written 8 v))) (State.drawn { s with inbox := rest } 8 v) = .next t
          else t = hostWrite r v { s with inbox := rest }
        | .rd r => t = State.hostRead { s with inbox := rest } r
        | .wait =>
          if s.busy then unitTurn (s.hostRead 6) = .next t else t = State.hostRead { s with inbox := rest } 6
        | .memRd a => hostMemRead a { s with inbox := rest } = .next t
        | .memWr a b => hostMemWrite a b { s with inbox := rest } = .next t
        | .pass => if s.halt then t = { s with inbox := rest } else unitTurn { s with inbox := rest } = .next t
        | .reset => t = State.resetUnit { s with inbox := rest } := by
  unfold step takeTurn at h
  cases hx : s.inbox with
  | nil => rw [hx] at h; exact .inl ⟨rfl, h⟩
  | cons a rest =>
    rw [hx] at h
    refine .inr ⟨a, rest, rfl, ?_⟩
    cases a with
    | wr r v =>
      by_cases hr : r = 0
      · simp only [hr, if_true, decode] at h
        simpa [hr] using h
      · simp only [hr, if_false] at h
        injection h with h
        simp only [hr, if_false]
        exact h.symm
    | rd r => simp only at h; injection h with h; exact h.symm
    | wait =>
      by_cases hb : s.busy = true
      · simp only [hb, if_true] at h; simpa [hb] using h
      · simp only [hb] at h
        injection h with h
        simp only [hb]
        exact h.symm
    | memRd a => simpa using h
    | memWr a b => simpa using h
    | pass =>
      by_cases hh : s.halt = true
      · simp only [hh, if_true] at h
        injection h with h
        simp only [hh, if_true]
        exact h.symm
      · simp only [hh] at h
        simpa [hh] using h
    | reset => simp only at h; injection h with h; exact h.symm

end Sys2Proof.Machine
end

