-- ==== Sys2Proof/Laws/PerInstr.lean ====
section
/-! SUPPORT. Facts about every instruction as syntax, one lemma a constructor. -/

namespace Sys2Proof.Laws.TableMatch

/-- The command word of an instruction matches its row of spec/opcode_table.json (mask 0x03, R74), and leaves the reserved
bits 7:3 zero (R73). -/
def Statement (i : Instr) : Prop :=
  i.wf = true ∧ encodeByte i &&& 0x03#8 = i.opcode.setWidth 8 ∧ encodeByte i &&& 0xF8#8 = 0x00#8

theorem encb (lenv : Bool) : Statement (.encb lenv) := by unfold Statement; cases lenv <;> decide

theorem decb (lenv : Bool) : Statement (.decb lenv) := by unfold Statement; cases lenv <;> decide

theorem enc (lenv : Bool) : Statement (.enc lenv) := by unfold Statement; cases lenv <;> decide

theorem dec (lenv : Bool) : Statement (.dec lenv) := by unfold Statement; cases lenv <;> decide

end Sys2Proof.Laws.TableMatch
end

