-- ==== Sys2Proof/Laws/Run.lean ====
section
/-! SUPPORT. What one step keeps, where bytes stand after a write, and how texts and runs come apart into windows. -/

namespace Sys2Proof.Machine

/-! ### Steps and runs -/

theorem step_of_inbox_nil {s : State} (h : s.inbox = []) : step s = unitTurn s := by simp [step, takeTurn, h]

theorem step_of_busy {s : State} (h : s.inbox = []) (hb : s.busy = true) (hh : s.halt = false) :
    step s = streamStep s := by
  simp [step_of_inbox_nil h, unitTurn, hb, hh]

/-- A run of `k + 1` steps is its first step and a run of `k`. -/
theorem run_succ (k : Nat) (s t : State) (h : step s = .next t) :
    Host.Core.run Sys2Proof.core (k + 1) s = Host.Core.run Sys2Proof.core k t := by
  have hc : Sys2Proof.core.step s = .next t := h
  simp only [Host.Core.run, hc]

/-- A running command of operation 2 is an ENC. -/
theorem encRunning_of_op {s : State} (hr : Running s) (ho : s.op = 2#2) : EncRunning s := by
  rcases hr.progress with h | h
  · exact h
  · have := h.op; rw [ho] at this; cases this

/-- A running command of operation 3 is a DEC. -/
theorem decRunning_of_op {s : State} (hr : Running s) (ho : s.op = 3#2) : DecRunning s := by
  rcases hr.progress with h | h
  · have := h.op; rw [ho] at this; cases this
  · exact h

/-! ### Where bytes stand -/

theorem holdsAt_append {m : List Host.Cell} {a : Nat} {xs ys : List Byte} :
    HoldsAt m a (xs ++ ys) ↔ HoldsAt m a xs ∧ HoldsAt m (a + xs.length) ys := by
  constructor
  · intro h
    refine ⟨fun k hk => ?_, fun k hk => ?_⟩
    · rw [h k (by simp; omega)]; simp [hk]
    · have := h (xs.length + k) (by simp; omega)
      rw [Nat.add_assoc, this]; simp
  · rintro ⟨h1, h2⟩ k hk
    by_cases hx : k < xs.length
    · rw [h1 k hx]; simp [hx]
    · simp at hk
      have := h2 (k - xs.length) (by omega)
      rw [Nat.add_assoc, Nat.add_sub_cancel' (by omega)] at this
      rw [this]; simp [List.getElem_append, hx]

/-- Bytes below a place that was written still stand. -/
theorem HoldsAt.of_sameOutside {m m' : List Host.Cell} {a b n : Nat} {bs : List Byte} (h : HoldsAt m a bs)
    (hs : SameOutside m m' b n) (hd : a + bs.length ≤ b) : HoldsAt m' a bs := by
  intro k hk; rw [hs _ (by omega)]; exact h k hk

theorem SameOutside.refl (m : List Host.Cell) (a n : Nat) : SameOutside m m a n := fun _ _ => rfl

theorem SameOutside.mono {m m' : List Host.Cell} {a n b k : Nat} (h : SameOutside m m' a n) (h1 : b ≤ a)
    (h2 : a + n ≤ b + k) : SameOutside m m' b k := fun x hx => h x (by omega)

theorem SameOutside.trans {m m' m'' : List Host.Cell} {a n : Nat} (h1 : SameOutside m m' a n)
    (h2 : SameOutside m' m'' a n) : SameOutside m m'' a n := fun x hx => (h2 x hx).trans (h1 x hx)

theorem holdsAt_write (m : List Host.Cell) (a : Nat) (bs : List Byte) (h : Memory.wf m = true) :
    HoldsAt (Memory.write m a bs) a bs := fun k hk => readByte_write_inside m a k bs h hk

theorem sameOutside_write (m : List Host.Cell) (a n : Nat) (bs : List Byte) (h : Memory.wf m = true)
    (hl : bs.length ≤ n) : SameOutside m (Memory.write m a bs) a n := by
  intro x hx; exact readByte_write_outside _ _ _ _ h (by omega)

/-- A decoded window: `n` bytes stored, the rest of its `w` bytes any value (R43, R114). -/
theorem write_havoc (m : List Host.Cell) (a : Nat) (bs : List Byte) (n w k : Nat) (hw : Memory.wf m = true)
    (hl : bs.length = n) (hN : n ≤ w) :
    HoldsAt (Memory.havoc (Memory.write m a bs) (a + n) (w - n) k) a bs ∧
      SameOutside m (Memory.havoc (Memory.write m a bs) (a + n) (w - n) k) a w := by
  have hw2 := write_wf m a bs hw
  constructor
  · intro j hj
    rw [readByte_havoc_outside _ _ _ _ _ hw2 (by omega)]
    exact readByte_write_inside _ _ _ _ hw hj
  · intro x hx
    rw [readByte_havoc_outside _ _ _ _ _ hw2 (by omega)]
    exact readByte_write_outside _ _ _ _ hw (by omega)

/-! ### Texts -/

/-- The text of a window of memory is the block of its first up to three bytes and the text of the rest. -/
theorem encText_chunk (m : List Host.Cell) (a l : Nat) (h : 1 ≤ l) :
    encText (Memory.read m a l) =
      blockChars (enc24 (rawGroup (Memory.read m a (min 3 l))) (min 3 l)) ++
        encText (Memory.read m (a + min 3 l) (l - min 3 l)) := by
  match l, h with
  | 1, _ => simp [Memory.read, encText]
  | 2, _ => simp [Memory.read, encText]
  | l + 3, _ =>
    have h1 : min 3 (l + 3) = 3 := by omega
    have h2 : l + 3 - 3 = l := by omega
    rw [h1, h2]
    rfl

theorem decGroups_nil (room : Nat) : decGroups room [] = ([], none) := by unfold decGroups; rfl

/-- What DEC does to a block and the text after it. -/
theorem decGroups_block (room : Nat) (q : Block) (rest : List Byte) :
    decGroups room (blockChars q ++ rest) =
      if room < 3 then ([], some .capacity)
      else
        match dec32 q with
        | none => ([], some .malformed)
        | some (bs, n) =>
          if n < 3 ∧ rest ≠ [] then ([], some .malformed)
          else (bs ++ (decGroups (room - 3) rest).1, (decGroups (room - 3) rest).2) := by
  have e : blockChars q ++ rest =
      q.extractLsb' 24 8 :: q.extractLsb' 16 8 :: q.extractLsb' 8 8 :: q.extractLsb' 0 8 :: rest := rfl
  have hq : encBlock [q.extractLsb' 24 8, q.extractLsb' 16 8, q.extractLsb' 8 8, q.extractLsb' 0 8] = q :=
    encBlock_blockChars q
  rw [e, decGroups, hq] <;> rfl

/-- What DEC does to `j + 1` groups that stand in memory. -/
theorem decGroups_read (room : Nat) (m : List Host.Cell) (a j : Nat) :
    decGroups room (Memory.read m a (4 * (j + 1))) =
      if room < 3 then ([], some .capacity)
      else
        match dec32 (encBlock (Memory.read m a 4)) with
        | none => ([], some .malformed)
        | some (bs, n) =>
          if n < 3 ∧ j ≠ 0 then ([], some .malformed)
          else
            (bs ++ (decGroups (room - 3) (Memory.read m (a + 4) (4 * j))).1,
              (decGroups (room - 3) (Memory.read m (a + 4) (4 * j))).2) := by
  have e : Memory.read m a (4 * (j + 1)) =
      Memory.readByte m a :: Memory.readByte m (a + 1) :: Memory.readByte m (a + 2) :: Memory.readByte m (a + 3) ::
        Memory.read m (a + 4) (4 * j) := by
    rw [show 4 * (j + 1) = 4 * j + 1 + 1 + 1 + 1 by omega]; rfl
  have e2 : (Memory.read m (a + 4) (4 * j) ≠ []) ↔ j ≠ 0 := by
    rw [← List.length_pos_iff_ne_nil, read_length]; omega
  rw [e, decGroups]
  simp only [e2]
  rfl

/-! ### What the operations do to the invariant -/

/-- A violation in a step of a running command. -/
theorem Invariant.raise {s : State} (k : Kind) (hb : s.busy = true) (h : Invariant s) : Invariant (s.raise k) := by
  obtain ⟨h1, h2, h3, h4, h5, h6, h7, h8, h9, h10, h11, h12, h13, h14, h15, h16, h17⟩ := h
  simp only [hb, Bool.toNat_true] at h14
  refine ⟨h1, h2, h3, h4, h5, h6, h7, ?_, h9, h10, ?_, by simp, by simp, ?_, ?_, by simp, by simp⟩
  · exact Nat.mod_lt _ (Nat.two_pow_pos _)
  · simp [h11]; cases s.viol <;> simp <;> rfl
  · simp; omega
  · simp; omega

/-- A violation at the issue of a command. -/
theorem Invariant.latch_raise {s : State} (op : BitVec 2) (l : Bool) (w : Lease) (k : Kind) (hi : Idle s)
    (h : Invariant s) : Invariant ((s.latch op l w).raise k) := by
  obtain ⟨h1, h2, h3, h4, h5, h6, h7, h8, h9, h10, h11, h12, h13, h14, h15, h16, h17⟩ := h
  simp only [hi.1, Bool.toNat_false] at h14
  refine ⟨h1, h2, h3, h4, h5, h6, h7, ?_, h9, h10, ?_, by simp, by simp, ?_, ?_, by simp, by simp⟩
  · exact Nat.mod_lt _ (Nat.two_pow_pos _)
  · show (s.halt || decide (s.cfg.mode = .production)) = (true && decide (s.cfg.mode = .production))
    simp [hi.2]
  · simp; omega
  · simp; omega

/-- The checks of a command at its issue: a violation, or what the command does when they pass. -/
theorem Invariant.latch_checked {s : State} (op : BitVec 2) (l : Bool) (w : Lease) (cs : List (Bool × Kind))
    (go : State → State) (hi : Idle s) (h : Invariant s)
    (hg : firstFailing cs = none → Invariant (go (s.latch op l w))) :
    Invariant ((s.latch op l w).checked cs go) := by
  rcases checked_cases (s.latch op l w) cs go with ⟨k, _, e⟩ | ⟨h1, e⟩
  · rw [e]; exact h.latch_raise op l w k hi
  · rw [e]; exact hg h1

/-- A block command that completes at its issue, whatever it stored. -/
theorem Invariant.latch_complete {s : State} (op : BitVec 2) (l : Bool) (w : Lease) (m : List Host.Cell) (r : Reg)
    (f : Nat) (hi : Idle s) (h : Invariant s) (hm : Memory.wf m = true) (hs : ∀ c ∈ m, c.1 < 2 ^ s.cfg.aw)
    (hr : r.val < 2 ^ s.cfg.lw) :
    Invariant ({ s.latch op l w with mem := m, rlen := r, free := f } : State).complete := by
  obtain ⟨h1, h2, h3, h4, h5, h6, h7, h8, h9, h10, h11, h12, h13, h14, h15, h16, h17⟩ := h
  simp only [hi.1, Bool.toNat_false] at h14 h15
  refine ⟨h1, hm, hs, h4, h5, h6, h7, hr, h9, h10, h11, h12, by simp, ?_, ?_, by simp, by simp⟩
  · simp; omega
  · simp; omega

/-- Taking an action from the inbox. -/
theorem Invariant.inbox {s : State} (rest : List HostAction) (h : Invariant s) :
    Invariant { s with inbox := rest } := by
  obtain ⟨i1, i2, i3, i4, i5, i6, i7, i8, i9, i10, i11, i12, i13, i14, i15, i16, i17⟩ := h
  refine ⟨i1, i2, i3, i4, i5, i6, i7, i8, i9, i10, i11, i12, i13, i14, i15, i16, fun hb => ?_⟩
  obtain ⟨r1, r2, r3, r4, r5, r6, r7, r8, r9, r10, r11⟩ := i17 hb
  exact ⟨r1, r2, r3, r4, r5, r6, r7, r8, r9, r10, r11.imp (fun ⟨a, b, c, d, e⟩ => ⟨a, b, c, d, e⟩)
    (fun ⟨a, b, c, d, e, f, g⟩ => ⟨a, b, c, d, e, f, g⟩)⟩

/-- Drawing free values. -/
theorem Invariant.free {s : State} (f : Nat) (h : Invariant s) : Invariant { s with free := f } := by
  obtain ⟨i1, i2, i3, i4, i5, i6, i7, i8, i9, i10, i11, i12, i13, i14, i15, i16, i17⟩ := h
  refine ⟨i1, i2, i3, i4, i5, i6, i7, i8, i9, i10, i11, i12, i13, i14, i15, i16, fun hb => ?_⟩
  obtain ⟨r1, r2, r3, r4, r5, r6, r7, r8, r9, r10, r11⟩ := i17 hb
  exact ⟨r1, r2, r3, r4, r5, r6, r7, r8, r9, r10, r11.imp (fun ⟨a, b, c, d, e⟩ => ⟨a, b, c, d, e⟩)
    (fun ⟨a, b, c, d, e, f, g⟩ => ⟨a, b, c, d, e, f, g⟩)⟩

theorem Invariant.drawn {s : State} (w v : Nat) (h : Invariant s) : Invariant (s.drawn w v) := by
  rw [drawn_eq]; exact h.free _

theorem Invariant.hostRead {s : State} (r : Nat) (h : Invariant s) : Invariant (s.hostRead r) := by
  obtain ⟨i1, i2, i3, i4, i5, i6, i7, i8, i9, i10, i11, i12, i13, i14, i15, i16, i17⟩ := h
  refine ⟨i1, i2, i3, i4, i5, i6, i7, i8, i9, i10, i11, i12, i13, i14, i15, i16, fun hb => ?_⟩
  have hb : s.busy = true := hb
  obtain ⟨r1, r2, r3, r4, r5, r6, r7, r8, r9, r10, r11⟩ := i17 hb
  exact ⟨r1, r2, r3, r4, r5, r6, r7, r8, r9, by simp [hb, r10], r11.imp (fun ⟨a, b, c, d, e⟩ => ⟨a, b, c, d, e⟩)
    (fun ⟨a, b, c, d, e, f, g⟩ => ⟨a, b, c, d, e, f, g⟩)⟩

/-! ### What a turn of the unit keeps -/

/-- A turn of the unit that answers a next state: the host's registers, the latched command and the barred windows are kept;
the sticky flags change by a violation only, which ends the running command uncompleted. -/
theorem unitTurn_keeps {s t : State} (h : unitTurn s = .next t) :
    t.cfg = s.cfg ∧ t.src = s.src ∧ t.len = s.len ∧ t.dst = s.dst ∧ t.cap = s.cap ∧ t.op = s.op ∧ t.lenv = s.lenv ∧
      t.inbox = s.inbox ∧ t.rdata = s.rdata ∧ t.leases = s.leases ∧ t.issued = s.issued ∧ s.halt = false ∧
      ((t.hookCalls = s.hookCalls ∧ t.viol = s.viol ∧ t.cause = s.cause ∧ t.halt = s.halt ∧
          s.completed + s.busy.toNat = t.completed + t.busy.toNat) ∨
        (s.busy = true ∧ t.hookCalls = s.hookCalls + 1 ∧ t.viol = true ∧ t.cause ≠ none ∧ t.busy = false ∧
          t.done = s.done ∧ t.halt = decide (s.cfg.mode = .production) ∧ t.completed = s.completed)) := by
  rcases unitTurn_cases h with ⟨hh, ⟨hb, h⟩ | ⟨hb, rfl⟩⟩
  · rcases streamStep_cases h with ⟨ho, hlt, h⟩ | ⟨ho, hlt, h⟩ | ⟨ho, hlt, h⟩ | ⟨ho, hlt, h⟩
    · obtain ⟨a1, a2, rfl⟩ := encBlockStep_cases h
      simp [hh]
    · obtain ⟨a1, rfl⟩ := encFinishStep_cases h
      simp [hh, hb]
    · rcases decBlockStep_cases h with ⟨_, rfl⟩ | ⟨a1, a2, a3, rfl⟩
      · simp [hh, hb]
      · rcases decGroup_cases s with e | ⟨bs, n, hd, hn, e⟩
        · simp [e, hh, hb]
        · simp [e, hh]
    · injection h with h
      subst h
      simp [hh, hb]
  · simp [hh]

end Sys2Proof.Machine
end

