-- ==== Sys2Proof/Tests/Slice0.lean ====
section
/-! SUPPORT. The model's own tests: expected values are those of spec/95_test_vectors.md and of the rules. The theorems
`test_witness_…` show, for each obligation with hypotheses, a concrete state that meets them. -/

open Sys2Proof Sys2Proof.Machine

namespace Sys2Proof.Tests

/-! ### Helpers -/

/-- The outcome is a next state with the property `p`. -/
def nextHas (o : Host.Outcome State Fault Refusal) (p : State → Bool) : Bool :=
  match o with
  | .next t => p t
  | .fault _ => false
  | .refused _ => false

theorem nextHas_next {o : Host.Outcome State Fault Refusal} {p : State → Bool} (h : nextHas o p = true) :
    ∃ t, o = .next t ∧ p t = true := by
  cases o with
  | next t => exact ⟨t, rfl, h⟩
  | fault _ => cases h
  | refused _ => cases h

/-- The memory of the vectors: the bytes `bs` at 0x1000, 0xEE in eight bytes from 0x2000. -/
def vecMem (bs : List Byte) : List Host.Cell :=
  Memory.write (Memory.write [] 0x1000 bs) 0x2000 (List.replicate 8 0xEE#8)

/-- The unit after reset and the host's calls up to the write of CTRL. -/
def unit (bs : List Byte) (src len dst cap : Nat) : State :=
  { State.reset with
    mem := vecMem bs, src := .holding src, len := .holding len, dst := .holding dst, cap := .holding cap }

/-- The same unit with its hook in PRODUCTION mode. -/
def production (s : State) : State := { s with cfg := { s.cfg with mode := .production } }

/-- The unit while it runs operation `op` with the windows of its operands. -/
def busyUnit (op : BitVec 2) (bs : List Byte) (len cap rpos wpos : Nat) : State :=
  { unit bs 0x1000 len 0x2000 cap with
    op := op, lenv := true, busy := true, rpos := rpos, wpos := wpos
    leases := [{ src := 0x1000, srcLen := len, dst := 0x2000, dstLen := cap }], issued := 1 }

/-- The host's next action is `a`. -/
def withAction (s : State) (a : HostAction) : State := { s with inbox := [a] }

def abc : List Byte := [0x61#8, 0x62#8, 0x63#8]
def ywjj : List Byte := [0x59#8, 0x57#8, 0x4A#8, 0x6A#8]
def ywi : List Byte := [0x59#8, 0x57#8, 0x49#8, 0x3D#8]
def yq : List Byte := [0x59#8, 0x51#8, 0x3D#8, 0x3D#8]

/-! ### Well-formedness: each check refuses a term that breaks it -/

/-- AW = 3 is below R4's bound. -/
theorem test_aw_too_small : UnitConfig.wf { aw := 3, lw := 3, mode := .test } = false := by decide

/-- LW = 2 is below R4's bound. -/
theorem test_lw_too_small : UnitConfig.wf { aw := 4, lw := 2, mode := .test } = false := by decide

/-- The smallest widths R4 allows. -/
theorem test_smallest_widths : UnitConfig.wf { aw := 4, lw := 3, mode := .test } = true := by decide

/-- A list out of order, and one that lists what an unlisted address reads as, are no memory in canonical form. -/
theorem test_memory_form :
    Memory.wf [(5, 0x01#8), (4, 0x01#8)] = false ∧ Memory.wf [(4, 0x00#8)] = false ∧
      Memory.wf [(4, 0x01#8), (5, 0x01#8)] = true := by decide

/-! ### Decoding: words written out from R73 and R74 (bits 7 to 0) -/

/-- OP = 00: ENCB. -/
theorem test_decode_encb : decode [0b00000000#8] = .ok (.encb false, []) := by decide

/-- OP = 01: DECB. -/
theorem test_decode_decb : decode [0b00000001#8] = .ok (.decb false, []) := by decide

/-- LENV = 1, OP = 10: ENC. -/
theorem test_decode_enc : decode [0b00000110#8] = .ok (.enc true, []) := by decide

/-- LENV = 1, OP = 11: DEC. -/
theorem test_decode_dec : decode [0b00000111#8] = .ok (.dec true, []) := by decide

/-- LENV = 0 with each stream operation, and LENV = 1 with each block operation (R12). -/
theorem test_decode_lenv :
    decode [0b00000010#8] = .ok (.enc false, []) ∧ decode [0b00000011#8] = .ok (.dec false, []) ∧
      decode [0b00000100#8] = .ok (.encb true, []) ∧ decode [0b00000101#8] = .ok (.decb true, []) := by decide

/-- The reserved bits 7:3 are ignored (R75), and a byte that follows is left alone. -/
theorem test_decode_reserved : decode [0b11111110#8, 0x55#8] = .ok (.enc true, [0x55#8]) := by decide

/-- No byte, no command. -/
theorem test_decode_nothing : decode [] = .error .noWord := by decide

/-- The table's words reach the decoder as it numbers them. -/
theorem test_decode_table :
    decodeTableWord 8 0x00 = some (.encb false) ∧ decodeTableWord 8 0x01 = some (.decb false) ∧
      decodeTableWord 8 0x02 = some (.enc false) ∧ decodeTableWord 8 0x03 = some (.dec false) := by decide

/-- The encoder's words are the spec's, reserved bits 0. -/
theorem test_encode :
    encode (.encb false) = [0x00#8] ∧ encode (.decb false) = [0x01#8] ∧ encode (.enc true) = [0x06#8] ∧
      encode (.dec true) = [0x07#8] ∧ encode (.enc false) = [0x02#8] ∧ encode (.dec false) = [0x03#8] := by decide

/-- The first instruction after reset is issued, whatever the operation: DONE stays 0 and the absent references raise
NULL_ARG (STATUS 0x14). -/
theorem test_step_runs_table_word :
    (List.range 8).all (fun w => nextHas (step (State.reset.withFetchWord 8 w))
      (fun t => t.op == BitVec.ofNat 2 w && t.statusWord == 0x14#8)) = true := by decide

/-! ### The block functions (vectors 2.2 and 2.3) -/

theorem test_enc24 :
    enc24 0x6162FF#24 2 = 0x5957493D#32 ∧ enc24 0x0000D3#24 3 = 0x41414454#32 ∧
      enc24 0x800000#24 1 = 0x67413D3D#32 ∧ enc24 0xFBFFBF#24 3 = 0x2B2F2B2F#32 := by decide

theorem test_dec32 :
    dec32 0x41514944#32 = some ([0x01#8, 0x02#8, 0x03#8], 3) ∧ dec32 0x59574A3D#32 = some ([0x61#8, 0x62#8], 2) ∧
      dec32 0x59583D3D#32 = some ([0x61#8], 1) ∧ dec32 0x592D4A6A#32 = none ∧ dec32 0x41413D41#32 = none := by decide

/-- REV at the edges of its ranges (vectors 2.1). -/
theorem test_rev :
    rev 0x5A#8 = .idx 25#6 ∧ rev 0x61#8 = .idx 26#6 ∧ rev 0x39#8 = .idx 61#6 ∧ rev 0x2B#8 = .idx 62#6 ∧
      rev 0x2F#8 = .idx 63#6 ∧ rev 0x3A#8 = .invalid ∧ rev 0x40#8 = .invalid ∧ rev 0x5B#8 = .invalid ∧
      rev 0x60#8 = .invalid ∧ rev 0x7B#8 = .invalid := by decide

/-! ### ENCB (vectors 2.4) -/

/-- `LEN = 2`: the third byte is not read, nothing is written after the fourth character, STATUS is 0x02. -/
theorem test_encb_two_bytes :
    nextHas (exec (.encb false) (unit abc 0x1000 2 0x2000 4)) (fun t =>
      Memory.read t.mem 0x2000 5 == [0x59#8, 0x57#8, 0x49#8, 0x3D#8, 0xEE#8] && t.statusWord == 0x02#8 &&
        t.rlen.held == false) = true := by decide

/-- The checks in order: NULL_ARG first, then the length, then the capacity. -/
theorem test_encb_checks :
    nextHas (exec (.encb false) (unit abc 0 0 0 0)) (fun t => t.statusWord == 0x14#8) = true ∧
      nextHas (exec (.encb false) (unit abc 0x1000 0 0x2000 0)) (fun t => t.statusWord == 0x44#8) = true ∧
      nextHas (exec (.encb false) (unit abc 0x1000 3 0x2000 3)) (fun t =>
        t.statusWord == 0x24#8 && Memory.read t.mem 0x2000 4 == List.replicate 4 0xEE#8) = true ∧
      nextHas (exec (.encb false) (production (unit abc 0x1000 4 0x2000 8))) (fun t => t.statusWord == 0x4C#8) = true := by
  decide

/-! ### DECB (vectors 2.5) -/

/-- `"YWJj"`, CAP 3: three bytes, RLEN 3, STATUS 0x02. -/
theorem test_decb_full_block :
    nextHas (exec (.decb false) (unit ywjj 0x1000 0 0x2000 3)) (fun t =>
      Memory.read t.mem 0x2000 4 == [0x61#8, 0x62#8, 0x63#8, 0xEE#8] && t.statusWord == 0x02#8 &&
        t.rlen.val == 3) = true := by decide

/-- Capacity before the characters; a malformed block writes nothing. -/
theorem test_decb_violations :
    nextHas (exec (.decb false) (unit [0x59#8, 0x2D#8, 0x4A#8, 0x6A#8] 0x1000 0 0x2000 2)) (fun t =>
      t.statusWord == 0x24#8) = true ∧
      nextHas (exec (.decb false) (unit [0x59#8, 0x2D#8, 0x4A#8, 0x6A#8] 0x1000 0 0x2000 3)) (fun t =>
        t.statusWord == 0x34#8 && Memory.read t.mem 0x2000 3 == List.replicate 3 0xEE#8) = true := by decide

/-! ### ENC (vectors 2.6) -/

/-- The second block step of `66 6F 6F 62`: one byte left, `"Yg=="` at DST + 4. -/
theorem test_enc_last_block :
    nextHas (step (busyUnit 2#2 [0x66#8, 0x6F#8, 0x6F#8, 0x62#8] 4 11 3 4)) (fun t =>
      Memory.read t.mem 0x2004 4 == [0x59#8, 0x67#8, 0x3D#8, 0x3D#8] && t.rpos == 4 && t.wpos == 8 && t.busy) = true := by
  decide

/-- The finish step: the terminator after the fourth character, RLEN 4, STATUS 0x02; and `ReqEnc` at its boundary. -/
theorem test_enc_finish_and_capacity :
    nextHas (step (busyUnit 2#2 abc 3 7 3 4)) (fun t =>
      Memory.read t.mem 0x2004 2 == [0x00#8, 0xEE#8] && t.rlen.val == 4 && t.statusWord == 0x02#8) = true ∧
      nextHas (exec (.enc true) (unit abc 0x1000 3 0x2000 4)) (fun t => t.statusWord == 0x24#8) = true ∧
      nextHas (exec (.enc true) (unit abc 0x1000 0 0x2000 1)) (fun t => t.statusWord == 0x01#8) = true ∧
      nextHas (exec (.enc false) (unit abc 0x1000 3 0x2000 5)) (fun t => t.statusWord == 0x14#8) = true := by decide

/-! ### DEC (vectors 2.7) -/

/-- A padded group that is not the last is malformed and writes nothing; a full one is written. -/
theorem test_dec_block_step :
    nextHas (step (busyUnit 3#2 (yq ++ ywjj) 8 6 0 0)) (fun t =>
      t.statusWord == 0x34#8 && Memory.read t.mem 0x2000 3 == List.replicate 3 0xEE#8) = true ∧
      nextHas (step (busyUnit 3#2 (ywjj ++ yq) 8 6 0 0)) (fun t =>
        Memory.read t.mem 0x2000 4 == [0x61#8, 0x62#8, 0x63#8, 0xEE#8] && t.rpos == 4 && t.wpos == 3) = true := by decide

/-- LEN not a multiple of 4; the capacity guard of a block step; the finish step reports WPOS and writes nothing. -/
theorem test_dec_guards :
    nextHas (exec (.dec true) (unit ywjj 0x1000 3 0x2000 3)) (fun t => t.statusWord == 0x34#8) = true ∧
      nextHas (step (busyUnit 3#2 (ywjj ++ yq) 8 5 4 3)) (fun t => t.statusWord == 0x24#8) = true ∧
      nextHas (step (busyUnit 3#2 ywi 4 3 4 2)) (fun t =>
        t.rlen.val == 2 && t.statusWord == 0x02#8 && Memory.readByte t.mem 0x2002 == 0xEE#8) = true := by decide

/-! ### The host -/

/-- A write while BUSY is lost; STATUS reads 0x01; reset idles the unit and leaves the memory. -/
theorem test_host_actions :
    nextHas (step (withAction (busyUnit 2#2 abc 3 5 0 0) (.wr 3 7))) (fun t => t.dst.val == 0x2000) = true ∧
      nextHas (step (withAction (busyUnit 2#2 abc 3 5 0 0) (.rd 6))) (fun t => t.rdata == 1) = true ∧
      nextHas (step (withAction (busyUnit 2#2 abc 3 5 0 0) .reset)) (fun t =>
        t.statusWord == 0x00#8 && t.src.held == false && Memory.readByte t.mem 0x1000 == 0x61#8) = true := by decide

/-! ### Witnesses: how a concrete state is shown to meet the premises -/

theorem meaningful {s : State} {rl : Bool} {n : Nat} (h : s.issueRefusal rl n = none) : Meaningful s rl n :=
  (issueRefusal_none s rl n).1 h

theorem not_meaningful {s : State} {rl : Bool} {n : Nat} (h : s.issueRefusal rl n ≠ none) : ¬ Meaningful s rl n :=
  fun hm => h ((issueRefusal_none s rl n).2 hm)

/-- `EncRunning` as a check. -/
def encRunningB (s : State) : Bool :=
  decide (s.op = 2#2) && decide (4 * ((s.len.val + 2) / 3) + 1 ≤ s.cap.val) && decide (s.rpos ≤ s.len.val) &&
    decide (s.rpos % 3 = 0 ∨ s.rpos = s.len.val) && decide (s.wpos = 4 * ((s.rpos + 2) / 3))

/-- `DecRunning` as a check. -/
def decRunningB (s : State) : Bool :=
  decide (s.op = 3#2) && decide (s.len.val % 4 = 0) && decide (s.rpos ≤ s.len.val) && decide (s.rpos % 4 = 0) &&
    decide (s.wpos ≤ s.cap.val) && decide (s.wpos ≤ 3 * (s.rpos / 4)) &&
    decide (s.rpos < s.len.val → s.wpos = 3 * (s.rpos / 4))

/-- `Running` as a check. -/
def runningB (s : State) : Bool :=
  !s.halt && !s.done && s.lenv && s.src.held && s.len.held && s.dst.held && s.cap.held && decide (s.src.val ≠ 0) &&
    decide (s.dst.val ≠ 0) && decide (s.src.val + s.len.val ≤ 2 ^ s.cfg.aw) &&
    decide (s.dst.val + s.cap.val ≤ 2 ^ s.cfg.aw) && !windowsMeet s.src.val s.len.val s.dst.val s.cap.val &&
    decide ({ src := s.src.val, srcLen := s.len.val, dst := s.dst.val, dstLen := s.cap.val } ∈ s.leases) &&
    (encRunningB s || decRunningB s)

/-- `Invariant` as a check. -/
def invariantB (s : State) : Bool :=
  s.cfg.wf && Memory.wf s.mem && (s.mem.all fun c => decide (c.1 < 2 ^ s.cfg.aw)) &&
    decide (s.src.val < 2 ^ s.cfg.aw) && decide (s.len.val < 2 ^ s.cfg.lw) && decide (s.dst.val < 2 ^ s.cfg.aw) &&
    decide (s.cap.val < 2 ^ s.cfg.lw) && decide (s.rlen.val < 2 ^ s.cfg.lw) && decide (s.rpos < 2 ^ s.cfg.lw) &&
    decide (s.wpos < 2 ^ s.cfg.lw) && decide (s.halt = (s.viol && decide (s.cfg.mode = .production))) &&
    decide (s.viol = s.cause.isSome) && (!s.done || !s.busy) && decide (s.completed + s.busy.toNat ≤ s.issued) &&
    decide (s.viol = true ↔ s.completed + s.busy.toNat < s.issued) &&
    decide (s.viol = false → (s.done = true ↔ s.busy = false ∧ s.issued ≠ 0)) && (!s.busy || runningB s)

theorem encRunning_of {s : State} (h : encRunningB s = true) : EncRunning s := by
  simp only [encRunningB, Bool.and_eq_true, decide_eq_true_eq] at h
  obtain ⟨⟨⟨⟨h1, h2⟩, h3⟩, h4⟩, h5⟩ := h
  exact ⟨h1, h2, h3, h4, h5⟩

theorem decRunning_of {s : State} (h : decRunningB s = true) : DecRunning s := by
  simp only [decRunningB, Bool.and_eq_true, decide_eq_true_eq] at h
  obtain ⟨⟨⟨⟨⟨⟨h1, h2⟩, h3⟩, h4⟩, h5⟩, h6⟩, h7⟩ := h
  exact ⟨h1, h2, h3, h4, h5, h6, h7⟩

theorem running_of {s : State} (h : runningB s = true) : Running s := by
  simp only [runningB, Bool.and_eq_true, decide_eq_true_eq, Bool.not_eq_true', Bool.or_eq_true] at h
  obtain ⟨⟨⟨⟨⟨⟨⟨⟨⟨⟨⟨⟨⟨h1, h2⟩, h3⟩, h4⟩, h5⟩, h6⟩, h7⟩, h8⟩, h9⟩, h10⟩, h11⟩, h12⟩, h13⟩, h14⟩ := h
  exact ⟨h1, h2, h3, ⟨h4, h5, h6, h7⟩, h8, h9, h10, h11, (windowsMeet_false _ _ _ _).1 h12, h13,
    h14.imp encRunning_of decRunning_of⟩

theorem invariant_of {s : State} (h : invariantB s = true) : Invariant s := by
  simp only [invariantB, Bool.and_eq_true, decide_eq_true_eq, Bool.not_eq_true', Bool.or_eq_true,
    List.all_eq_true] at h
  obtain ⟨⟨⟨⟨⟨⟨⟨⟨⟨⟨⟨⟨⟨⟨⟨⟨h1, h2⟩, h3⟩, h4⟩, h5⟩, h6⟩, h7⟩, h8⟩, h9⟩, h10⟩, h11⟩, h12⟩, h13⟩, h15⟩, h16⟩, h17⟩, h14⟩ := h
  refine ⟨h1, h2, h3, h4, h5, h6, h7, h8, h9, h10, h11, h12, ?_, h15, h16, h17, ?_⟩
  · intro hd
    rcases h13 with h | h
    · rw [hd] at h; cases h
    · exact h
  · intro hb
    rcases h14 with h | h
    · rw [hb] at h; cases h
    · exact running_of h

/-! ### Witnesses: the encoding and the block functions -/

theorem test_witness_EncodeThenDecode : (Instr.enc true).wf = true := by decide

theorem test_witness_ReservedBits : 0xFE#8 &&& 0x07#8 = 0x06#8 &&& 0x07#8 := by decide

/-- A pad in the first place, and one in the second place only. -/
theorem test_witness_PadCharacter :
    (0x3D414141#32).extractLsb' 24 8 = 0x3D#8 ∧ (0x413D4141#32).extractLsb' 16 8 = 0x3D#8 := by decide

/-- An invalid character in each place, and the codes at the bounds of the ranges. -/
theorem test_witness_InvalidCharacter :
    rev ((0x2D414141#32).extractLsb' 24 8) = .invalid ∧ rev ((0x412D4141#32).extractLsb' 16 8) = .invalid ∧
      rev ((0x41412D41#32).extractLsb' 8 8) = .invalid ∧ rev ((0x4141412D#32).extractLsb' 0 8) = .invalid ∧
      (0x20#8).toNat ≤ 0x20 ∧ 0x80 ≤ (0x80#8).toNat := by decide

/-- One block for each of the three legal patterns and each kind of illegal one. -/
theorem test_witness_LegalPadPatterns :
    rev 0x59#8 ≠ .invalid ∧ rev 0x3D#8 ≠ .invalid ∧
      (dec32 0x59574A6A#32).map Prod.snd = some 3 ∧ (dec32 0x5957493D#32).map Prod.snd = some 2 ∧
      (dec32 0x59513D3D#32).map Prod.snd = some 1 ∧ dec32 0x3D414141#32 = none ∧ dec32 0x413D4141#32 = none ∧
      dec32 0x41413D41#32 = none := by decide

theorem test_witness_EncodedBlockShape : enc24 0x616263#24 3 = enc24 (0x61#8 ++ 0x62#8 ++ 0x63#8) 3 := by decide

/-- A full block; a padded block with the discarded bits zero, and one with a discarded bit set, for each pad count. -/
theorem test_witness_BlockEncoderInverts :
    dec32 0x59574A6A#32 = some (abc, 3) ∧
      dec32 (alpha 24#6 ++ alpha 22#6 ++ alpha 8#6 ++ 0x3D#8) = some ([0x61#8, 0x62#8], 2) ∧
      dec32 (alpha 24#6 ++ alpha 22#6 ++ alpha 9#6 ++ 0x3D#8) = some ([0x61#8, 0x62#8], 2) ∧
      dec32 (alpha 24#6 ++ alpha 16#6 ++ 0x3D#8 ++ 0x3D#8) = some ([0x61#8], 1) ∧
      dec32 (alpha 24#6 ++ alpha 17#6 ++ 0x3D#8 ++ 0x3D#8) = some ([0x61#8], 1) := by decide

/-! ### Witnesses: the issue of each command -/

/-- The premises of the issue statements, all but the operands' values. -/
def IssueReady (s : State) (rl : Bool) (n : Nat) : Prop :=
  Memory.wf s.mem = true ∧ Invariant s ∧ Idle s ∧ s.inbox = [] ∧ Meaningful s rl n

theorem issueReady {s : State} {rl : Bool} {n : Nat} (h1 : invariantB s = true) (h2 : s.busy = false)
    (h3 : s.halt = false) (h4 : s.inbox = []) (h5 : s.issueRefusal rl n = none) : IssueReady s rl n :=
  ⟨(invariant_of h1).memWf, invariant_of h1, ⟨h2, h3⟩, h4, meaningful h5⟩

/-- LEN at both ends of 1 to 3, CAP at its least. -/
theorem test_witness_EncbWrites :
    IssueReady (unit abc 0x1000 1 0x2000 4) true 1 ∧ IssueReady (unit abc 0x1000 3 0x2000 4) true 3 :=
  ⟨issueReady (by decide) rfl rfl rfl (by decide), issueReady (by decide) rfl rfl rfl (by decide)⟩

/-- One state for each check of ENCB that fails: SRC, DST, LEN 0, LEN 4, CAP 3. -/
theorem test_witness_EncbViolates :
    IssueReady (unit abc 0 3 0x2000 4) true 3 ∧ IssueReady (unit abc 0x1000 3 0 4) true 3 ∧
      IssueReady (unit abc 0x1000 0 0x2000 4) true 0 ∧ IssueReady (unit abc 0x1000 4 0x2000 4) true 4 ∧
      IssueReady (unit abc 0x1000 3 0x2000 3) true 3 :=
  ⟨issueReady (by decide) rfl rfl rfl (by decide), issueReady (by decide) rfl rfl rfl (by decide),
    issueReady (by decide) rfl rfl rfl (by decide), issueReady (by decide) rfl rfl rfl (by decide),
    issueReady (by decide) rfl rfl rfl (by decide)⟩

/-- CAP at its least, with a full block and with each padded one. -/
theorem test_witness_DecbReads :
    IssueReady (unit ywjj 0x1000 0 0x2000 3) false 4 ∧
      dec32 (encBlock (Memory.read (unit ywjj 0x1000 0 0x2000 3).mem 0x1000 4)) = some (abc, 3) ∧
      dec32 (encBlock (Memory.read (unit ywi 0x1000 0 0x2000 3).mem 0x1000 4)) = some ([0x61#8, 0x62#8], 2) ∧
      dec32 (encBlock (Memory.read (unit yq 0x1000 0 0x2000 3).mem 0x1000 4)) = some ([0x61#8], 1) :=
  ⟨issueReady (by decide) rfl rfl rfl (by decide), by decide, by decide, by decide⟩

/-- One state for each way DECB raises: SRC, DST, CAP 2, a malformed block. -/
theorem test_witness_DecbViolates :
    IssueReady (unit ywjj 0 0 0x2000 3) false 4 ∧ IssueReady (unit ywjj 0x1000 0 0 3) false 4 ∧
      IssueReady (unit ywjj 0x1000 0 0x2000 2) false 4 ∧
      IssueReady (unit [0x3D#8, 0x41#8, 0x41#8, 0x41#8] 0x1000 0 0x2000 3) false 4 ∧
      dec32 (encBlock (Memory.read (unit [0x3D#8, 0x41#8, 0x41#8, 0x41#8] 0x1000 0 0x2000 3).mem 0x1000 4)) = none :=
  ⟨issueReady (by decide) rfl rfl rfl (by decide), issueReady (by decide) rfl rfl rfl (by decide),
    issueReady (by decide) rfl rfl rfl (by decide), issueReady (by decide) rfl rfl rfl (by decide), by decide⟩

/-- A unit with 8-bit lengths and 191 source bytes: `ReqEnc` is 257, above every capacity. -/
def narrow : State :=
  { State.resetWith { aw := 8, lw := 8, mode := .test } with
    src := .holding 1, len := .holding 191, dst := .holding 192, cap := .holding 64 }

theorem test_witness_RequiredCapacity : IssueReady narrow true 191 ∧ 2 ^ narrow.cfg.lw - 1 < reqEnc narrow.len.val :=
  ⟨issueReady (by decide) rfl rfl rfl (by decide), by decide⟩

/-- ENC with CAP exactly `ReqEnc(LEN)`, for LEN 0, 1, 3 and 4: the issue statement and the run statement. -/
theorem test_witness_EncStarts :
    IssueReady (unit abc 0x1000 0 0x2000 1) true 0 ∧ IssueReady (unit abc 0x1000 1 0x2000 5) true 1 ∧
      IssueReady (unit abc 0x1000 3 0x2000 5) true 3 ∧ IssueReady (unit abc 0x1000 4 0x2000 9) true 4 :=
  ⟨issueReady (by decide) rfl rfl rfl (by decide), issueReady (by decide) rfl rfl rfl (by decide),
    issueReady (by decide) rfl rfl rfl (by decide), issueReady (by decide) rfl rfl rfl (by decide)⟩

/-- ENC with each check failing: SRC, DST, and CAP one short (with LENV = 0 the first state of `EncStarts` will do). -/
theorem test_witness_EncViolates :
    IssueReady (unit abc 0 3 0x2000 5) true 3 ∧ IssueReady (unit abc 0x1000 3 0 5) true 3 ∧
      IssueReady (unit abc 0x1000 3 0x2000 4) true 3 :=
  ⟨issueReady (by decide) rfl rfl rfl (by decide), issueReady (by decide) rfl rfl rfl (by decide),
    issueReady (by decide) rfl rfl rfl (by decide)⟩

/-- DEC with LEN 0 and LEN 4 (it starts), with LEN 3 and LEN 5, and with each reference absent (it raises). -/
theorem test_witness_DecIssue :
    IssueReady (unit ywjj 0x1000 0 0x2000 0) true 0 ∧ IssueReady (unit ywjj 0x1000 4 0x2000 3) true 4 ∧
      IssueReady (unit ywjj 0x1000 3 0x2000 3) true 3 ∧ IssueReady (unit ywjj 0x1000 5 0x2000 3) true 5 ∧
      IssueReady (unit ywjj 0 4 0x2000 3) true 4 ∧ IssueReady (unit ywjj 0x1000 4 0 3) true 4 :=
  ⟨issueReady (by decide) rfl rfl rfl (by decide), issueReady (by decide) rfl rfl rfl (by decide),
    issueReady (by decide) rfl rfl rfl (by decide), issueReady (by decide) rfl rfl rfl (by decide),
    issueReady (by decide) rfl rfl rfl (by decide), issueReady (by decide) rfl rfl rfl (by decide)⟩

/-- The run of DEC: a text that decodes, a padded group too early, a capacity one short. -/
theorem test_witness_DecRun :
    IssueReady (unit (ywjj ++ yq) 0x1000 8 0x2000 6) true 8 ∧
      decGroups 6 (Memory.read (unit (ywjj ++ yq) 0x1000 8 0x2000 6).mem 0x1000 8) = (abc ++ [0x61#8], none) ∧
      IssueReady (unit (yq ++ ywjj) 0x1000 8 0x2000 6) true 8 ∧
      decGroups 6 (Memory.read (unit (yq ++ ywjj) 0x1000 8 0x2000 6).mem 0x1000 8) = ([], some .malformed) ∧
      IssueReady (unit (ywjj ++ yq) 0x1000 8 0x2000 5) true 8 ∧
      decGroups 5 (Memory.read (unit (ywjj ++ yq) 0x1000 8 0x2000 5).mem 0x1000 8) = (abc, some .capacity) :=
  ⟨issueReady (by decide) rfl rfl rfl (by decide), by decide, issueReady (by decide) rfl rfl rfl (by decide), by decide,
    issueReady (by decide) rfl rfl rfl (by decide), by decide⟩

/-- The round trip's premises for the bytes `61 62 63 61` with the least capacity. -/
theorem test_witness_DecRestores :
    (unit (ywjj ++ yq) 0x1000 8 0x2000 6).len.val = 4 * (((abc ++ [0x61#8]).length + 2) / 3) ∧
      Memory.read (unit (ywjj ++ yq) 0x1000 8 0x2000 6).mem 0x1000 8 = encText (abc ++ [0x61#8]) ∧
      3 * (((abc ++ [0x61#8]).length + 2) / 3) ≤ (unit (ywjj ++ yq) 0x1000 8 0x2000 6).cap.val := by decide

/-- A text of whole groups, and one that ends in a padded group (R198), at the least capacity. -/
theorem test_witness_Concatenation :
    abc.length % 3 = 0 ∧ [0x61#8].length % 3 ≠ 0 ∧ abc ≠ [] ∧ 3 * ((encText [0x61#8] ++ encText abc).length / 4) ≤ 6 ∧
      3 * ((encText abc ++ encText [0x61#8]).length / 4) ≤ 6 := by decide

/-- Each way a command has no meaning: an operand unset, a window that wraps by one, windows that share one address; and
windows that only touch have a meaning. -/
theorem test_witness_Refused :
    exec (.encb false) State.reset = .refused .operandUnset ∧
      exec (.encb false) (unit abc (2 ^ 32 - 2) 3 0x2000 4) = .refused .windowWraps ∧
      exec (.encb false) (unit abc 0x1FFE 3 0x2000 4) = .refused .windowsOverlap ∧
      Idle (unit abc 0x1FFE 3 0x2000 4) ∧ Meaningful (unit abc 0x1FFD 3 0x2000 4) true 3 :=
  ⟨rfl, rfl, rfl, ⟨rfl, rfl⟩, meaningful (by decide)⟩

/-- A command that completes, one that runs, one that raises. -/
theorem test_witness_CommandOutcome :
    (∃ t, exec (.encb false) (unit abc 0x1000 3 0x2000 4) = .next t) ∧
      (∃ t, exec (.enc true) (unit abc 0x1000 3 0x2000 5) = .next t) ∧
      (∃ t, exec (.dec true) (unit abc 0x1000 3 0x2000 5) = .next t) ∧ Idle (unit abc 0x1000 3 0x2000 5) :=
  ⟨⟨_, rfl⟩, ⟨_, rfl⟩, ⟨_, rfl⟩, ⟨rfl, rfl⟩⟩

/-- Two different states that agree on what a command depends on. -/
theorem test_witness_IssueDepends :
    let s := unit ywjj 0x1000 0 0x2000 3
    let s' := { s with rlen := .holding 7, free := 5, mem := Memory.writeByte s.mem 0x2001 0x55#8 }
    Memory.wf s.mem = true ∧ Memory.wf s'.mem = true ∧ s ≠ s' ∧
      Memory.read s'.mem 0x1000 4 = Memory.read s.mem 0x1000 4 ∧ ∃ t, exec (.decb false) s = .next t :=
  ⟨by decide, by decide, by decide, by decide, ⟨_, rfl⟩⟩

/-! ### Witnesses: a running stream command -/

/-- ENC before its first and its last window, LEN 1, 3 and 4; the capacity exactly `ReqEnc`. -/
theorem test_witness_EncBlockStep :
    Invariant (busyUnit 2#2 abc 1 5 0 0) ∧ Invariant (busyUnit 2#2 abc 3 5 0 0) ∧ Invariant (busyUnit 2#2 abc 4 9 3 4) ∧
      (busyUnit 2#2 abc 4 9 3 4).inbox = [] :=
  ⟨invariant_of (by decide), invariant_of (by decide), invariant_of (by decide), rfl⟩

/-- ENC at its finish step, LEN 0 and LEN 3. -/
theorem test_witness_EncFinishStep :
    Invariant (busyUnit 2#2 abc 0 1 0 0) ∧ Invariant (busyUnit 2#2 abc 3 5 3 4) :=
  ⟨invariant_of (by decide), invariant_of (by decide)⟩

/-- DEC before a block: the capacity one short, a malformed block, a padded block too early, a block that is written. -/
theorem test_witness_DecBlockStep :
    Invariant (busyUnit 3#2 (ywjj ++ yq) 8 5 4 3) ∧ Invariant (busyUnit 3#2 abc 4 3 0 0) ∧
      dec32 (encBlock (Memory.read (busyUnit 3#2 abc 4 3 0 0).mem 0x1000 4)) = none ∧
      Invariant (busyUnit 3#2 (yq ++ ywjj) 8 6 0 0) ∧ Invariant (busyUnit 3#2 (ywjj ++ yq) 8 6 4 3) :=
  ⟨invariant_of (by decide), invariant_of (by decide), by decide, invariant_of (by decide), invariant_of (by decide)⟩

/-- DEC at its finish step: LEN 0, and after a padded last group. -/
theorem test_witness_DecFinishStep :
    Invariant (busyUnit 3#2 ywi 0 0 0 0) ∧ Invariant (busyUnit 3#2 ywi 4 3 4 2) :=
  ⟨invariant_of (by decide), invariant_of (by decide)⟩

/-- A halted unit with nothing left to do: the state after a violation in PRODUCTION mode. -/
theorem test_witness_HaltedUnit :
    ((production (unit abc 0 3 0x2000 4)).raise .nullArg).halt = true ∧
      ((production (unit abc 0 3 0x2000 4)).raise .nullArg).inbox = [] ∧
      step ((production (unit abc 0 3 0x2000 4)).raise .nullArg) = .fault .halted :=
  ⟨rfl, rfl, rfl⟩

/-- A step that invokes the hook and one that does not. -/
theorem test_witness_Hook :
    Invariant (withAction (unit abc 0 3 0x2000 4) (.wr 0 0)) ∧
      nextHas (step (withAction (unit abc 0 3 0x2000 4) (.wr 0 0))) (fun t => t.hookCalls == 1) = true ∧
      nextHas (step (withAction (unit abc 0x1000 3 0x2000 4) (.wr 0 0))) (fun t => t.hookCalls == 0) = true :=
  ⟨invariant_of (by decide), by decide, by decide⟩

/-! ### Witnesses: the host -/

/-- A reset while busy; a step with VIOL, HALT and CAUSE set; a step that sets HALT. -/
theorem test_witness_StickyFlags :
    (withAction (busyUnit 2#2 abc 3 5 0 0) .reset).inbox = [.reset] ∧
      (∃ t, step (withAction ((production (unit abc 0 3 0x2000 4)).raise .nullArg) (.rd 6)) = .next t) ∧
      nextHas (step (withAction (production (unit abc 0 3 0x2000 4)) (.wr 0 0))) (fun t => t.halt) = true :=
  ⟨rfl, ⟨_, rfl⟩, by decide⟩

/-- Writes that are lost: to CTRL, and of a value too wide for SRC, while BUSY; and a unit with HALT. -/
theorem test_witness_WriteLost :
    (busyUnit 2#2 abc 3 5 0 0).busy = true ∧ ((production (unit abc 0 3 0x2000 4)).raise .nullArg).halt = true ∧
      step (withAction (busyUnit 2#2 abc 3 5 0 0) (.wr 0 0xFF)) = .next (busyUnit 2#2 abc 3 5 0 0) ∧
      step (withAction (busyUnit 2#2 abc 3 5 0 0) (.wr 1 (2 ^ 32))) = .next (busyUnit 2#2 abc 3 5 0 0) :=
  ⟨rfl, rfl, rfl, rfl⟩

/-- A value the register has no room for, written to LEN and to CTRL of an idle unit: the register holds a free value, and a
command is issued (log entry 10). -/
theorem test_wide_writes :
    step (withAction (unit abc 0x1000 3 0x2000 4) (.wr 2 (2 ^ 32))) =
        .next { unit abc 0x1000 3 0x2000 4 with len := .holding (Config.freeNat 0 % 2 ^ 32), free := 1 } ∧
      step (withAction (unit abc 0x1000 3 0x2000 4) (.wr 0 256)) =
        exec (decodeByte (BitVec.ofNat 8 (Config.freeNat 0 % 2 ^ 8))) { unit abc 0x1000 3 0x2000 4 with free := 1 } :=
  ⟨rfl, rfl⟩

/-- The greatest value of each operand register. -/
theorem test_witness_HostWrite :
    Idle (withAction State.reset (.wr 1 (2 ^ 32 - 1))) ∧ 2 ^ 32 - 1 < 2 ^ State.reset.cfg.aw ∧
      2 ^ 32 - 1 < 2 ^ State.reset.cfg.lw :=
  ⟨⟨rfl, rfl⟩, by decide, by decide⟩

/-- A read of every register number, with values held and not held. -/
theorem test_witness_HostRead :
    (withAction State.reset (.rd 1)).inbox = [.rd 1] ∧ State.reset.src.held = false ∧
      (unit abc 1 2 3 4).src.held = true ∧ (unit abc 1 2 3 4).cap.held = true ∧
      nextHas (step (withAction (unit abc 0x1000 3 0x2000 4) (.rd 3))) (fun t => t.rdata == 0x2000) = true ∧
      nextHas (step (withAction (unit abc 0x1000 3 0x2000 4) (.rd 7))) (fun t => t.rdata == 0) = true :=
  ⟨rfl, rfl, rfl, rfl, by decide, by decide⟩

/-- A block step is a step that is no host write, no reset and no memory write. -/
theorem test_witness_UnitStep :
    Invariant (busyUnit 2#2 abc 3 5 0 0) ∧ (∃ t, step (busyUnit 2#2 abc 3 5 0 0) = .next t) ∧
      (∀ r v rest, (busyUnit 2#2 abc 3 5 0 0).inbox ≠ .wr r v :: rest) ∧
      (∀ a b rest, (busyUnit 2#2 abc 3 5 0 0).inbox ≠ .memWr a b :: rest) :=
  ⟨invariant_of (by decide), ⟨_, rfl⟩, fun _ _ _ h => by (cases h), fun _ _ _ h => by (cases h)⟩

/-- A running command and an access to the first and the last byte of each window, and one beyond. -/
theorem test_witness_SharedWindow :
    Invariant (withAction (busyUnit 2#2 abc 3 5 0 0) (.memWr 0x1002 0#8)) ∧
      step (withAction (busyUnit 2#2 abc 3 5 0 0) (.memWr 0x1000 0#8)) = .refused .windowShared ∧
      step (withAction (busyUnit 2#2 abc 3 5 0 0) (.memWr 0x1002 0#8)) = .refused .windowShared ∧
      step (withAction (busyUnit 2#2 abc 3 5 0 0) (.memWr 0x2004 0#8)) = .refused .windowShared ∧
      step (withAction (busyUnit 2#2 abc 3 5 0 0) (.memRd 0x2000)) = .refused .windowShared ∧
      (∃ t, step (withAction (busyUnit 2#2 abc 3 5 0 0) (.memWr 0x1003 0#8)) = .next t) ∧
      (∃ t, step (withAction (busyUnit 2#2 abc 3 5 0 0) (.memRd 0x1000)) = .next t) :=
  ⟨invariant_of (by decide), rfl, rfl, rfl, rfl, ⟨_, rfl⟩, ⟨_, rfl⟩⟩

/-- An ENCB issued while an earlier command's windows are barred leaves both barred, and a read of either destination is
refused (R194). -/
theorem test_windows_of_two_commands :
    let w : Lease := { src := 0x1000, srcLen := 3, dst := 0x3000, dstLen := 4 }
    let v : Lease := { src := 0x1000, srcLen := 3, dst := 0x2000, dstLen := 4 }
    let s := { unit abc 0x1000 3 0x2000 4 with leases := [w] }
    nextHas (exec (.encb false) s) (fun t => decide (t.leases = [v, w])) = true ∧
      step (withAction { s with leases := [v, w] } (.memRd 0x3003)) = .refused .windowShared ∧
      step (withAction { s with leases := [v, w] } (.memRd 0x2000)) = .refused .windowShared :=
  ⟨by decide, rfl, rfl⟩

/-- A window barred after a block command has completed, and the reads that free it. -/
theorem test_witness_BarredWindows :
    (∃ t, exec (.encb false) (unit abc 0x1000 3 0x2000 4) = .next t) ∧ Idle (unit abc 0x1000 3 0x2000 4) ∧
      nextHas (exec (.encb false) (unit abc 0x1000 3 0x2000 4)) (fun t =>
        decide ({ src := 0x1000, srcLen := 3, dst := 0x2000, dstLen := 4 } ∈ t.leases) &&
          nextHas (step (withAction t (.rd 5))) (fun u => decide (u.leases = t.leases)) &&
          nextHas (step (withAction t .reset)) (fun u => decide (u.leases = t.leases)) &&
          nextHas (step (withAction t (.rd 6))) (fun u => decide (u.leases = []))) = true :=
  ⟨⟨_, rfl⟩, ⟨rfl, rfl⟩, by decide⟩

/-- A memory access below, at the last, and at the first address that does not exist, with no windows to keep off. -/
theorem test_witness_HostMemory :
    Memory.wf (unit abc 0x1000 3 0x2000 4).mem = true ∧ (unit abc 0x1000 3 0x2000 4).leases = [] ∧
      nextHas (step (withAction (unit abc 0x1000 3 0x2000 4) (.memWr (2 ^ 32 - 1) 0x5A#8))) (fun t =>
        Memory.readByte t.mem (2 ^ 32 - 1) == 0x5A#8) = true ∧
      nextHas (step (withAction (unit abc 0x1000 3 0x2000 4) (.memRd 0x1002))) (fun t => t.rdata == 0x63) = true ∧
      step (withAction (unit abc 0x1000 3 0x2000 4) (.memRd (2 ^ 32))) = .fault .noSuchAddress :=
  ⟨by decide, rfl, by decide, by decide, rfl⟩

/-- WAIT while busy, with the unit's own turn that it takes, and while idle. -/
theorem test_witness_Wait :
    Invariant (withAction (busyUnit 2#2 abc 3 5 0 0) .wait) ∧ (busyUnit 2#2 abc 3 5 0 0).busy = true ∧
      (∃ u, step { State.hostRead (withAction (busyUnit 2#2 abc 3 5 0 0) .wait) 6 with inbox := [] } = .next u) ∧
      Invariant (withAction (unit abc 0x1000 3 0x2000 5) .wait) ∧ (unit abc 0x1000 3 0x2000 5).busy = false :=
  ⟨invariant_of (by decide), rfl, ⟨_, rfl⟩, invariant_of (by decide), rfl⟩

/-- A write of CTRL as the next action, and the command it decodes to. -/
theorem test_witness_StepRunsCommand :
    (withAction State.reset (.wr 0 0xFE)).inbox = [.wr 0 0xFE] ∧ decode [BitVec.ofNat 8 0xFE] = .ok (.enc true, []) :=
  ⟨rfl, by decide⟩

/-- A run over with no command issued; one over after a command that completed; one over after a violation; one not over. -/
theorem test_witness_RunEnds :
    EndedWell State.reset ∧
      nextHas (step (withAction (unit abc 0x1000 3 0x2000 4) (.wr 0 0))) (fun t =>
        decide (t.inbox = []) && !t.busy && t.completed == 1 && t.issued == 1 && !t.viol && t.done) = true ∧
      nextHas (step (withAction (unit abc 0 3 0x2000 4) (.wr 0 0))) (fun t =>
        decide (t.inbox = []) && !t.busy && t.completed == 0 && t.issued == 1 && t.viol) = true ∧
      Invariant (busyUnit 2#2 abc 3 5 0 0) ∧ ¬ RunOver (busyUnit 2#2 abc 3 5 0 0) :=
  ⟨⟨⟨rfl, rfl⟩, rfl, rfl⟩, by decide, by decide, invariant_of (by decide), fun h => by cases h.2⟩

/-- An idle turn, a turn under `pass` while a command runs, and one while the unit is halted. -/
theorem test_witness_Turns :
    Idle State.reset ∧ State.reset.inbox = [] ∧ step State.reset = .next State.reset ∧
      (∃ t, step { withAction (busyUnit 2#2 abc 3 5 0 0) .pass with inbox := [] } = .next t) ∧
      nextHas (step (withAction (busyUnit 2#2 abc 3 5 0 0) .pass)) (fun t => t.rpos == 3) = true ∧
      ((production (unit abc 0 3 0x2000 4)).raise .nullArg).halt = true :=
  ⟨⟨rfl, rfl⟩, rfl, rfl, ⟨_, rfl⟩, by decide, rfl⟩

/-- A write of RLEN and of a number that does not exist by the host of an idle unit. -/
theorem test_ignored_writes :
    step (withAction (unit abc 0x1000 3 0x2000 4) (.wr 5 9)) = .next (unit abc 0x1000 3 0x2000 4) ∧
      step (withAction (unit abc 0x1000 3 0x2000 4) (.wr 7 9)) = .next (unit abc 0x1000 3 0x2000 4) := ⟨rfl, rfl⟩

/-- The smallest configuration, and a state with nothing to do that is not halted. -/
theorem test_witness_Invariant :
    UnitConfig.wf { aw := 4, lw := 3, mode := .production } = true ∧ Invariant State.reset ∧ State.reset.halt = false :=
  ⟨by decide, invariant_of (by decide), rfl⟩

end Sys2Proof.Tests
end

/-! The statements about the state (10_state.md): what each action of the host does, everything the issue of a command can
do, and what every step keeps. -/

namespace Sys2Proof.Machine

/-! ### One step, by the host's next action -/

theorem step_wr_ctrl {s : State} {v : Nat} {rest : List HostAction} (hx : s.inbox = .wr 0 v :: rest) :
    step s =
      exec (decodeByte (BitVec.ofNat 8 (s.written 8 v))) (State.drawn { s with inbox := rest } 8 v) := by
  simp [step, takeTurn, hx, decode]

theorem step_wr_reg {s : State} {r v : Nat} {rest : List HostAction} (hr : r ≠ 0)
    (hx : s.inbox = .wr r v :: rest) : step s = .next (hostWrite r v { s with inbox := rest }) := by
  simp [step, takeTurn, hx, hr]

theorem step_rd {s : State} {r : Nat} {rest : List HostAction} (hx : s.inbox = .rd r :: rest) :
    step s = .next (State.hostRead { s with inbox := rest } r) := by
  simp [step, takeTurn, hx]

theorem step_reset {s : State} {rest : List HostAction} (hx : s.inbox = .reset :: rest) :
    step s = .next (State.resetUnit { s with inbox := rest }) := by
  simp [step, takeTurn, hx]

/-! ### Host writes of a register other than CTRL -/

theorem hostWrite_of_no_width {s : State} {r : Nat} (v : Nat) (hw : regWidth s.cfg r = none) :
    hostWrite r v s = s := by
  simp [hostWrite, hw]

/-- The registers a host write of a number other than 0 may change are SRC, LEN, DST and CAP (R32). -/
theorem setOperand_frame (s : State) (r v : Nat) :
    s.setOperand r v = { s with
      src := (s.setOperand r v).src, len := (s.setOperand r v).len, dst := (s.setOperand r v).dst,
      cap := (s.setOperand r v).cap } := by
  unfold State.setOperand
  split <;> rfl

theorem hostWrite_frame (r v : Nat) (s : State) :
    ∃ a l d c f, hostWrite r v s = { s with src := a, len := l, dst := d, cap := c, free := f } := by
  rcases hostWrite_cases r v s with e | ⟨-, w, x, f, -, -, -, e⟩
  · exact ⟨_, _, _, _, _, e⟩
  · exact ⟨_, _, _, _, _, e.trans (setOperand_frame _ r x)⟩

theorem hostWrite_of_idle {s : State} {r w : Nat} (v : Nat) (hi : Idle s) (hw : regWidth s.cfg r = some w) :
    hostWrite r v s = (s.drawn w v).setOperand r (s.written w v) := by
  obtain ⟨hb, hh⟩ := hi
  simp [hostWrite, hb, hh, hw]

/-- A write of RLEN, of STATUS or of a number that does not exist is ignored (R17, R18, R32). -/
theorem step_wr_ignored {s : State} {r v : Nat} {rest : List HostAction} (hr : 5 ≤ r)
    (hx : s.inbox = .wr r v :: rest) : step s = .next { s with inbox := rest } := by
  obtain ⟨k, rfl⟩ := Nat.exists_eq_add_of_le' hr
  rw [step_wr_reg (by omega) hx, hostWrite_of_no_width v rfl]

/-- A write of an operand register of an idle unit stores a value of the register's width, the value written where that
fits (R31, R32). -/
theorem step_wr_operand {s : State} {r v w : Nat} {rest : List HostAction} (hi : Idle s) (hr : r ≠ 0)
    (hx : s.inbox = .wr r v :: rest) (hw : regWidth s.cfg r = some w) :
    ∃ x f, x < 2 ^ w ∧ (v < 2 ^ w → x = v ∧ f = s.free) ∧
      step s = .next (State.setOperand { s with inbox := rest, free := f } r x) := by
  refine ⟨s.written w v, (State.drawn { s with inbox := rest } w v).free, written_lt s w v, fun hv => ?_, ?_⟩
  · exact ⟨written_of_fits s hv, by rw [drawn_of_fits _ hv]⟩
  · rw [step_wr_reg hr hx, hostWrite_of_idle v (s := { s with inbox := rest }) hi hw, drawn_eq]
    rfl

/-! ### The words the host reads -/

/-- A byte laid out as STATUS is (R18), as a number. -/
theorem statusBits_toNat : ∀ (b d v h : Bool) (c : BitVec 3),
    (0#1 ++ c ++ BitVec.ofBool h ++ BitVec.ofBool v ++ BitVec.ofBool d ++ BitVec.ofBool b : Byte).toNat =
      b.toNat + 2 * d.toNat + 4 * v.toNat + 8 * h.toNat + 16 * c.toNat := by
  decide

theorem statusWord_toNat (s : State) :
    s.statusWord.toNat =
      s.busy.toNat + 2 * s.done.toNat + 4 * s.viol.toNat + 8 * s.halt.toNat + 16 * (causeCode s.cause).toNat :=
  statusBits_toNat _ _ _ _ _

theorem ctrlWord_toNat : ∀ (op : BitVec 2) (l : Bool), (ctrlWord op l).toNat = op.toNat + 4 * l.toNat := by
  decide

theorem regRead_held (s : State) {x : Reg} (w : Nat) (h : x.held = true) : s.regRead x w = x.val := if_pos h

theorem regRead_lt_of_not_held (s : State) {x : Reg} (w : Nat) (h : x.held = false) : s.regRead x w < 2 ^ w := by
  simp only [State.regRead, h, Bool.false_eq_true, if_false]
  exact Nat.mod_lt _ (Nat.two_pow_pos w)

theorem readReg_of_seven_le (s : State) {r : Nat} (h : 7 ≤ r) : s.readReg r = 0 := by
  obtain ⟨k, rfl⟩ := Nat.exists_eq_add_of_le' h
  rfl

/-! ### Everything the issue of a command can do -/

/-- The state in which command `i` makes its checks (R12, R20, R194). -/
def State.latchFor (s : State) (i : Instr) : State := s.latch i.opcode i.lenv (s.windows (srcSize s i))

/-- What the issue of command `i` in `s` can leave. -/
inductive IssueResult (s : State) (i : Instr) : State → Prop where
  /-- the write of CTRL came while BUSY or HALT was 1 (R31) -/
  | lost (hb : s.busy = true ∨ s.halt = true) : IssueResult s i s
  /-- a check failed, or the block of DECB is malformed (R166, R113) -/
  | violated (k : Kind) (hi : Idle s) : IssueResult s i ((s.latchFor i).raise k)
  /-- a block command stored the bytes `bs` in its destination window and completed (R92, R113) -/
  | completed (bs : List Byte) (r : Reg) (f : Nat) (hi : Idle s) (hm : Meaningful s (readsLen i) (srcSize s i))
      (hd : s.dst.val ≠ 0) (hcap : bs.length ≤ s.cap.val) (hr : r = s.rlen ∨ r.val ≤ 3) :
      IssueResult s i
        (State.complete { s.latchFor i with mem := Memory.write s.mem s.dst.val bs, rlen := r, free := f })
  /-- a stream command passed its checks and runs (R132, R136) -/
  | started (hi : Idle s) (hm : Meaningful s true s.len.val) (hl : i.lenv = true) (hs : s.src.val ≠ 0)
      (hd : s.dst.val ≠ 0) (hn : srcSize s i = s.len.val)
      (hop : i.opcode = 2#2 ∧ 4 * ((s.len.val + 2) / 3) + 1 ≤ s.cap.val ∨ i.opcode = 3#2 ∧ s.len.val % 4 = 0) :
      IssueResult s i (s.latchFor i).startStream

/-- An issue with checks that answers a next state was lost, failed a check, or performed its effect. -/
theorem issueResult_of_checked {s t : State} {i : Instr} {checks : State → List (Bool × Kind)} {go : State → State}
    (h : issueCommand i.opcode i.lenv (readsLen i) (srcSize s i) (fun u => u.checked (checks u) go) s = .next t)
    (hgo : Idle s → Meaningful s (readsLen i) (srcSize s i) → firstFailing (checks (s.latchFor i)) = none →
      IssueResult s i (go (s.latchFor i))) :
    IssueResult s i t := by
  rcases issueCommand_cases h with ⟨hb, rfl⟩ | ⟨hi, hm, rfl⟩
  · exact .lost hb
  · rcases checked_cases (s.latchFor i) (checks (s.latchFor i)) go with ⟨k, -, e⟩ | ⟨hc, e⟩
    · exact e ▸ .violated k hi
    · exact e ▸ hgo hi hm hc

/-- Two lists written one after the other are one list written. -/
theorem write_append (m : List Host.Cell) (a : Nat) (xs ys : List Byte) :
    Memory.write m a (xs ++ ys) = Memory.write (Memory.write m a xs) (a + xs.length) ys := by
  induction xs generalizing m a with
  | nil => rfl
  | cons x xs ih =>
    simp only [List.cons_append, Memory.write, List.length_cons, ih]
    rw [Nat.add_assoc, Nat.add_comm 1]

/-- A decoded block and the free bytes after it (R114) are one list of three bytes written. -/
theorem havoc_write_eq_write (m : List Host.Cell) (a : Nat) {q : Block} {bs : List Byte} {n : Nat} (k : Nat)
    (h : dec32 q = some (bs, n)) :
    ∃ cs : List Byte, cs.length = 3 ∧
      Memory.havoc (Memory.write m a bs) (a + n) (3 - n) k = Memory.write m a cs := by
  obtain ⟨hl, -, hn⟩ := dec32_length h
  refine ⟨bs ++ freeBytes k (3 - n), ?_, ?_⟩
  · rw [List.length_append, freeBytes_length]
    omega
  · rw [write_append, hl]
    rfl

/-! ### The checks that an issue with an effect has passed (R166) -/

theorem encbChecks_pass (s : State) :
    firstFailing (encbChecks s) = none ↔
      s.src.val ≠ 0 ∧ s.dst.val ≠ 0 ∧ s.len.val ≠ 0 ∧ s.len.val ≤ 3 ∧ 4 ≤ s.cap.val := by
  rw [firstFailing_none]
  simp [encbChecks]

theorem decbChecks_pass (s : State) :
    firstFailing (decbChecks s) = none ↔ s.src.val ≠ 0 ∧ s.dst.val ≠ 0 ∧ 3 ≤ s.cap.val := by
  rw [firstFailing_none]
  simp [decbChecks]

theorem encChecks_pass (s : State) :
    firstFailing (encChecks s) = none ↔
      s.src.val ≠ 0 ∧ s.dst.val ≠ 0 ∧ s.lenv = true ∧ reqEnc s.len.val ≤ s.cap.val := by
  rw [firstFailing_none]
  simp [encChecks]

theorem decChecks_pass (s : State) :
    firstFailing (decChecks s) = none ↔
      s.src.val ≠ 0 ∧ s.dst.val ≠ 0 ∧ s.lenv = true ∧ s.len.val % 4 = 0 := by
  rw [firstFailing_none]
  simp [decChecks]

theorem encb_issueResult {s t : State} {l : Bool} (h : exec (.encb l) s = .next t) : IssueResult s (.encb l) t := by
  rw [exec_encb] at h
  refine issueResult_of_checked (i := .encb l) (checks := encbChecks) h fun hi hm hc => ?_
  obtain ⟨-, hd, -, -, hcap⟩ := (encbChecks_pass _).1 hc
  exact .completed (blockChars _) s.rlen s.free hi hm hd hcap (.inl rfl)

theorem decb_issueResult {s t : State} {l : Bool} (h : exec (.decb l) s = .next t) : IssueResult s (.decb l) t := by
  rw [exec_decb] at h
  refine issueResult_of_checked (i := .decb l) (checks := decbChecks) h fun hi hm hc => ?_
  obtain ⟨-, hd, hcap⟩ := (decbChecks_pass _).1 hc
  unfold decbEffect
  split
  · exact .violated .malformed hi
  · rename_i bs n hq
    obtain ⟨cs, hlen, hw⟩ := havoc_write_eq_write s.mem s.dst.val s.free hq
    obtain ⟨-, -, hn⟩ := dec32_length hq
    have hr := IssueResult.completed (i := .decb l) cs (.holding n) (s.free + (3 - n)) hi hm hd (hlen ▸ hcap) (.inr hn)
    rw [← hw] at hr
    exact hr

theorem enc_issueResult {s t : State} {l : Bool} (h : exec (.enc l) s = .next t) : IssueResult s (.enc l) t := by
  rw [exec_enc] at h
  refine issueResult_of_checked (i := .enc l) (checks := encChecks) h fun hi hm hc => ?_
  obtain ⟨hs, hd, hl, hcap⟩ := (encChecks_pass _).1 hc
  exact .started hi hm hl hs hd rfl (.inl ⟨rfl, hcap⟩)

theorem dec_issueResult {s t : State} {l : Bool} (h : exec (.dec l) s = .next t) : IssueResult s (.dec l) t := by
  rw [exec_dec] at h
  refine issueResult_of_checked (i := .dec l) (checks := decChecks) h fun hi hm hc => ?_
  obtain ⟨hs, hd, hl, hmod⟩ := (decChecks_pass _).1 hc
  exact .started hi hm hl hs hd rfl (.inr ⟨rfl, hmod⟩)

/-- Everything the issue of a command that answers a next state can have done. -/
theorem exec_issueResult {s t : State} {i : Instr} (h : exec i s = .next t) : IssueResult s i t := by
  cases i with
  | encb l => exact encb_issueResult h
  | decb l => exact decb_issueResult h
  | enc l => exact enc_issueResult h
  | dec l => exact dec_issueResult h

/-! ### The invariant, operation by operation -/

theorem running_withMemory {s : State} (m : List Host.Cell) (d : Nat) (h : Running s) :
    Running { s with mem := m, rdata := d } := by
  obtain ⟨r1, r2, r3, r4, r5, r6, r7, r8, r9, r10, r11⟩ := h
  exact ⟨r1, r2, r3, r4, r5, r6, r7, r8, r9, r10, r11.imp (fun ⟨a, b, c, d, e⟩ => ⟨a, b, c, d, e⟩)
    (fun ⟨a, b, c, d, e, f, g⟩ => ⟨a, b, c, d, e, f, g⟩)⟩

/-- A memory access of the host: a memory in canonical form below `2 ^ AW`, and any value read. -/
theorem Invariant.withMemory {s : State} (m : List Host.Cell) (d : Nat) (h : Invariant s)
    (hm : Memory.wf m = true) (hs : ∀ c ∈ m, c.1 < 2 ^ s.cfg.aw) : Invariant { s with mem := m, rdata := d } :=
  { h with memWf := hm, memSpace := hs, running := fun hb => running_withMemory m d (h.running hb) }

/-- A host write of an operand register of an idle unit (R13 to R16, R32). -/
theorem Invariant.setOperand {s : State} {r w v : Nat} (hi : Idle s) (hw : regWidth s.cfg r = some w)
    (hv : v < 2 ^ w) (h : Invariant s) : Invariant (s.setOperand r v) := by
  have hrun : ¬ s.busy = true := by simp [hi.1]
  match r, hw with
  | 0, _ => exact h
  | 1, rfl => exact { h with srcWidth := hv, running := fun hb => absurd hb hrun }
  | 2, rfl => exact { h with lenWidth := hv, running := fun hb => absurd hb hrun }
  | 3, rfl => exact { h with dstWidth := hv, running := fun hb => absurd hb hrun }
  | 4, rfl => exact { h with capWidth := hv, running := fun hb => absurd hb hrun }

theorem Invariant.hostWrite {s : State} (r v : Nat) (h : Invariant s) : Invariant (hostWrite r v s) := by
  rcases hostWrite_cases r v s with e | ⟨hi, w, x, f, hw, hx, -, e⟩
  · rwa [e]
  · rw [e]
    exact (h.free f).setOperand hi hw hx

theorem Invariant.hostMemRead {a : Nat} {s t : State} (h : Invariant s) (ht : hostMemRead a s = .next t) :
    Invariant t := by
  obtain ⟨-, -, rfl⟩ := hostMemRead_cases ht
  exact h.withMemory s.mem _ h.memWf h.memSpace

theorem Invariant.hostMemWrite {a : Nat} {b : Byte} {s t : State} (h : Invariant s)
    (ht : hostMemWrite a b s = .next t) : Invariant t := by
  obtain ⟨ha, -, rfl⟩ := hostMemWrite_cases ht
  exact h.withMemory _ s.rdata (writeByte_wf _ _ _ h.memWf) (write_below s.mem a _ [b] h.memSpace ha)

/-- A reset needs of the unit only its configuration and its memory (R33, R190). -/
theorem invariant_resetUnit {s : State} (hc : s.cfg.wf = true) (hm : Memory.wf s.mem = true)
    (hs : ∀ c ∈ s.mem, c.1 < 2 ^ s.cfg.aw) : Invariant s.resetUnit where
  cfgWf := hc
  memWf := hm
  memSpace := hs
  srcWidth := Nat.two_pow_pos _
  lenWidth := Nat.two_pow_pos _
  dstWidth := Nat.two_pow_pos _
  capWidth := Nat.two_pow_pos _
  rlenWidth := Nat.two_pow_pos _
  rposWidth := Nat.two_pow_pos _
  wposWidth := Nat.two_pow_pos _
  haltIff := rfl
  violCause := rfl
  busyNotDone := fun _ => rfl
  counted := Nat.le_refl 0
  violCounted := by simp
  doneIff := by simp
  running := by simp

theorem invariant_resetWith {c : UnitConfig} (hc : c.wf = true) : Invariant (State.resetWith c) :=
  invariant_resetUnit (s := State.resetWith c) hc rfl (by simp [State.resetWith])

/-! ### The invariant at the issue of a command -/

theorem three_lt_two_pow_lw {c : UnitConfig} (h : c.wf = true) : 3 < 2 ^ c.lw := by
  simp only [UnitConfig.wf, Bool.and_eq_true, decide_eq_true_eq] at h
  calc 3 < 2 ^ 3 := by decide
    _ ≤ 2 ^ c.lw := Nat.pow_le_pow_right (by decide) h.2

/-- A stream command starts with both counters at 0 (R132, R136). -/
theorem Invariant.latchFor_startStream {s : State} {i : Instr} (h : Invariant s) (hi : Idle s)
    (hm : Meaningful s true s.len.val) (hl : i.lenv = true) (hs : s.src.val ≠ 0) (hd : s.dst.val ≠ 0)
    (hn : srcSize s i = s.len.val)
    (hop : i.opcode = 2#2 ∧ 4 * ((s.len.val + 2) / 3) + 1 ≤ s.cap.val ∨ i.opcode = 3#2 ∧ s.len.val % 4 = 0) :
    Invariant (s.latchFor i).startStream := by
  obtain ⟨hb, hh⟩ := hi
  have hcount := h.counted
  have hviol := h.violCounted
  simp only [hb, Bool.toNat_false] at hcount hviol
  have hrun : Running (s.latchFor i).startStream :=
    { notHalted := hh
      notDone := rfl
      sink := hl
      held := ⟨hm.held.1, hm.lenHeld rfl, hm.held.2⟩
      srcPresent := hs
      dstPresent := hd
      srcFits := hm.srcFits hs
      dstFits := hm.dstFits hd
      apart := hm.apart hs hd
      leased := by simp [State.latchFor, windows_present _ hs hd, hn]
      progress := hop.imp
        (fun ⟨ho, hc⟩ => ⟨ho, hc, Nat.zero_le _, .inl rfl, by simp⟩)
        (fun ⟨ho, hc⟩ => ⟨ho, hc, Nat.zero_le _, rfl, Nat.zero_le _, Nat.zero_le _, fun _ => by simp⟩) }
  exact { h with
    rposWidth := Nat.two_pow_pos _
    wposWidth := Nat.two_pow_pos _
    busyNotDone := by simp [State.latchFor]
    counted := Nat.add_le_add_right hcount 1
    violCounted := hviol.trans Nat.add_lt_add_iff_right.symm
    doneIff := by simp [State.latchFor]
    running := fun _ => hrun }

theorem Invariant.issueResult {s t : State} {i : Instr} (h : Invariant s) (ht : IssueResult s i t) : Invariant t := by
  cases ht with
  | lost hb => exact h
  | violated k hi => exact h.latch_raise _ _ _ k hi
  | completed bs r f hi hm hd hcap hr =>
    have hfit : s.dst.val + bs.length ≤ 2 ^ s.cfg.aw :=
      calc s.dst.val + bs.length ≤ s.dst.val + s.cap.val := Nat.add_le_add_left hcap _
        _ ≤ 2 ^ s.cfg.aw := hm.dstFits hd
    have hrw : r.val < 2 ^ s.cfg.lw := by
      rcases hr with rfl | hr
      · exact h.rlenWidth
      · exact Nat.lt_of_le_of_lt hr (three_lt_two_pow_lw h.cfgWf)
    exact h.latch_complete _ _ _ _ r f hi (write_wf _ _ _ h.memWf) (write_below _ _ _ _ h.memSpace hfit) hrw
  | started hi hm hl hs hd hn hop => exact h.latchFor_startStream hi hm hl hs hd hn hop

/-! ### The invariant in the steps of a running command -/

/-- The counters of a running command stay within its windows. -/
theorem progress_bounds {s : State} (h : EncRunning s ∨ DecRunning s) :
    s.rpos ≤ s.len.val ∧ s.wpos ≤ s.cap.val := by
  rcases h with he | hd
  · obtain ⟨-, hcap, hle, -, hw⟩ := he
    omega
  · exact ⟨hd.rposLe, hd.wposLe⟩

/-- A block step (R133, R137): bytes stored inside the memory, and the counters advanced to where the command may be. -/
theorem Invariant.store_advance {s : State} {a : Nat} {bs : List Byte} {r w : Nat} (f : Nat) (h : Invariant s)
    (hb : s.busy = true) (hfit : a + bs.length ≤ 2 ^ s.cfg.aw)
    (hp : EncRunning (State.advance { s.store a bs with free := f } r w) ∨
      DecRunning (State.advance { s.store a bs with free := f } r w)) :
    Invariant (State.advance { s.store a bs with free := f } r w) := by
  obtain ⟨hrpos, hwpos⟩ := progress_bounds hp
  exact { h with
    memWf := write_wf _ _ _ h.memWf
    memSpace := write_below _ _ _ _ h.memSpace hfit
    rposWidth := Nat.lt_of_le_of_lt hrpos h.lenWidth
    wposWidth := Nat.lt_of_le_of_lt hwpos h.capWidth
    running := fun _ => { h.running hb with progress := hp } }

/-- A finish step (R134, R138): bytes stored inside the memory, WPOS to RLEN, and the command completes. -/
theorem Invariant.store_finish {s : State} {a : Nat} {bs : List Byte} (h : Invariant s) (hb : s.busy = true)
    (hfit : a + bs.length ≤ 2 ^ s.cfg.aw) : Invariant ((s.store a bs).setRlen s.wpos).complete := by
  have hcount := h.counted
  have hviol := h.violCounted
  simp only [hb, Bool.toNat_true] at hcount hviol
  have hne : s.issued ≠ 0 := by omega
  exact { h with
    memWf := write_wf _ _ _ h.memWf
    memSpace := write_below _ _ _ _ h.memSpace hfit
    rlenWidth := h.wposWidth
    busyNotDone := fun _ => rfl
    counted := hcount
    violCounted := hviol
    doneIff := by simp [hne]
    running := by simp }

theorem Invariant.encBlockStep {s t : State} (h : Invariant s) (hb : s.busy = true) (ho : s.op = 2#2)
    (hlt : s.rpos < s.len.val) (ht : encBlockStep s = .next t) : Invariant t := by
  obtain ⟨-, hfit, rfl⟩ := encBlockStep_cases ht
  obtain ⟨hop, hcap, hle, hbound, hw⟩ := encRunning_of_op (h.running hb) ho
  refine h.store_advance (bs := blockChars _) s.free hb hfit (.inl ⟨hop, hcap, ?_, ?_, ?_⟩) <;>
    simp only [advance_rpos, advance_wpos, advance_len, store_rpos, store_wpos, store_len, State.encWindow] <;> omega

theorem Invariant.encFinishStep {s t : State} (h : Invariant s) (hb : s.busy = true)
    (ht : encFinishStep s = .next t) : Invariant t := by
  obtain ⟨hfit, rfl⟩ := encFinishStep_cases ht
  exact h.store_finish hb hfit

theorem Invariant.decFinishStep {s t : State} (h : Invariant s) (hb : s.busy = true)
    (ht : decFinishStep s = .next t) : Invariant t := by
  cases ht
  exact h.store_finish (a := 0) (bs := []) hb (Nat.zero_le _)

/-- A group stored by a DEC block step (R137): only the last group may yield fewer than three bytes. -/
theorem Invariant.decGroup_stored {s : State} {q : Block} {bs : List Byte} {n : Nat} (h : Invariant s)
    (hb : s.busy = true) (ho : s.op = 3#2) (hlt : s.rpos < s.len.val) (hcap : 3 ≤ s.cap.val - s.wpos)
    (hfit : s.dst.val + s.wpos + 3 ≤ 2 ^ s.cfg.aw) (hq : dec32 q = some (bs, n))
    (hn : ¬ (n < 3 ∧ s.rpos + 4 < s.len.val)) :
    Invariant (((s.store (s.dst.val + s.wpos) bs).havoc (s.dst.val + s.wpos + n) (3 - n)).advance 4 n) := by
  obtain ⟨-, -, hn3⟩ := dec32_length hq
  obtain ⟨hop, hmod, hle, hrmod, hwle, hwtop, hweq⟩ := decRunning_of_op (h.running hb) ho
  obtain ⟨cs, hlen, hw⟩ := havoc_write_eq_write s.mem (s.dst.val + s.wpos) s.free hq
  have hstate : (s.store (s.dst.val + s.wpos) bs).havoc (s.dst.val + s.wpos + n) (3 - n) =
      { s.store (s.dst.val + s.wpos) cs with free := s.free + (3 - n) } := by
    simp only [State.havoc, store_mem, store_free, hw]
    rfl
  rw [hstate]
  refine h.store_advance _ hb (hlen ▸ hfit) (.inr ⟨hop, hmod, ?_, ?_, ?_, ?_, ?_⟩) <;>
    simp only [advance_rpos, advance_wpos, advance_len, advance_cap, store_rpos, store_wpos, store_len, store_cap] <;>
    omega

theorem Invariant.decBlockStep {s t : State} (h : Invariant s) (hb : s.busy = true) (ho : s.op = 3#2)
    (hlt : s.rpos < s.len.val) (ht : decBlockStep s = .next t) : Invariant t := by
  rcases decBlockStep_cases ht with ⟨-, rfl⟩ | ⟨hcap, -, hfit, rfl⟩
  · exact h.raise .capacity hb
  · rcases decGroup_cases s with e | ⟨bs, n, hq, hn, e⟩
    · exact e ▸ h.raise .malformed hb
    · exact e ▸ h.decGroup_stored hb ho hlt hcap hfit hq hn

theorem Invariant.unitTurn {s t : State} (h : Invariant s) (ht : unitTurn s = .next t) : Invariant t := by
  obtain ⟨-, ⟨hb, ht⟩ | ⟨-, rfl⟩⟩ := unitTurn_cases ht
  · rcases streamStep_cases ht with ⟨ho, hlt, ht⟩ | ⟨-, -, ht⟩ | ⟨ho, hlt, ht⟩ | ⟨-, -, ht⟩
    · exact h.encBlockStep hb ho hlt ht
    · exact h.encFinishStep hb ht
    · exact h.decBlockStep hb ho hlt ht
    · exact h.decFinishStep hb ht
  · exact h

/-- Settles O51, by the host's next action: its own operation, the issue of a command, or the unit's turn. -/
theorem everyStepKeepsTheInvariant : Obligations.EveryStepKeepsTheInvariant := by
  unfold Obligations.EveryStepKeepsTheInvariant
  intro s t h ht
  rcases step_cases ht with ⟨-, ht⟩ | ⟨a, rest, -, ht⟩
  · exact h.unitTurn ht
  · have hr := h.inbox rest
    cases a with
    | wr r v =>
      dsimp only at ht
      split at ht
      · exact (hr.drawn 8 v).issueResult (exec_issueResult ht)
      · exact ht ▸ hr.hostWrite r v
    | rd r => exact ht ▸ hr.hostRead r
    | wait =>
      dsimp only at ht
      split at ht
      · exact (h.hostRead 6).unitTurn ht
      · exact ht ▸ hr.hostRead 6
    | memRd a => exact hr.hostMemRead ht
    | memWr a b => exact hr.hostMemWrite ht
    | pass =>
      dsimp only at ht
      split at ht
      · exact ht ▸ hr
      · exact hr.unitTurn ht
    | reset => exact ht ▸ invariant_resetUnit hr.cfgWf hr.memWf hr.memSpace

/-- Settles O50, from what a reset leaves of any unit. -/
theorem resetEstablishesTheInvariant : Obligations.ResetEstablishesTheInvariant := by
  unfold Obligations.ResetEstablishesTheInvariant
  exact ⟨invariant_resetWith (by decide), fun c hc => invariant_resetWith hc⟩

/-! ### The configuration and the sticky flags over a step -/

/-- From `s` to `t` the configuration stays, no sticky flag is cleared, and HALT is set in PRODUCTION mode only (R21 to
R23, R29, R168). -/
structure FlagsKept (s t : State) : Prop where
  cfg : t.cfg = s.cfg
  viol : s.viol = true → t.viol = true
  halt : s.halt = true → t.halt = true
  cause : s.cause ≠ none → t.cause ≠ none
  production : s.halt = false → t.halt = true → s.cfg.mode = .production

theorem FlagsKept.of_eq {s t : State} (hc : t.cfg = s.cfg) (hv : t.viol = s.viol) (hh : t.halt = s.halt)
    (hk : t.cause = s.cause) : FlagsKept s t :=
  ⟨hc, fun h => hv ▸ h, fun h => hh ▸ h, fun h => hk ▸ h, fun h h' => by rw [hh, h] at h'; cases h'⟩

theorem FlagsKept.refl (s : State) : FlagsKept s s := .of_eq rfl rfl rfl rfl

theorem flagsKept_raise (s : State) (k : Kind) : FlagsKept s (s.raise k) where
  cfg := rfl
  viol := fun _ => rfl
  halt := fun h => by simp [h]
  cause := fun _ => by simp
  production := fun h h' => by simpa [h] using h'

theorem flagsKept_hostWrite (r v : Nat) (s : State) : FlagsKept s (hostWrite r v s) := by
  obtain ⟨a, l, d, c, f, e⟩ := hostWrite_frame r v s
  rw [e]
  exact .of_eq rfl rfl rfl rfl

theorem IssueResult.flagsKept {s t : State} {i : Instr} (h : IssueResult s i t) : FlagsKept s t := by
  cases h with
  | lost hb => exact .refl s
  | violated k hi =>
    obtain ⟨hc, hv, hh, hk, hp⟩ := flagsKept_raise (s.latchFor i) k
    exact ⟨hc, hv, hh, hk, hp⟩
  | completed bs r f hi hm hd hcap hr => exact .of_eq rfl rfl rfl rfl
  | started hi hm hl hs hd hn hop => exact .of_eq rfl rfl rfl rfl

theorem flagsKept_unitTurn {s t : State} (h : unitTurn s = .next t) : FlagsKept s t := by
  obtain ⟨hc, -, -, -, -, -, -, -, -, -, -, hh, hf⟩ := unitTurn_keeps h
  rcases hf with ⟨-, hv, hk, ht, -⟩ | ⟨-, -, hv, hk, -, -, ht, -⟩
  · exact .of_eq hc hv ht hk
  · exact ⟨hc, fun _ => hv, fun h => by simp [hh] at h, fun _ => hk, fun _ h => by simpa [ht] using h⟩

/-- Flags kept from a state that differs from `s` in neither configuration nor flags. -/
theorem FlagsKept.of_same {s u t : State} (h : FlagsKept u t) (hc : u.cfg = s.cfg) (hv : u.viol = s.viol)
    (hh : u.halt = s.halt) (hk : u.cause = s.cause) : FlagsKept s t := by
  obtain ⟨c, v, a, k, p⟩ := h
  rw [hc] at c p
  rw [hv] at v
  rw [hh] at a p
  rw [hk] at k
  exact ⟨c, v, a, k, p⟩

/-- No step but a reset clears a sticky flag or changes the configuration. -/
theorem step_flagsKept {s t : State} (h : step s = .next t) (hno : ∀ rest, s.inbox ≠ .reset :: rest) :
    FlagsKept s t := by
  rcases step_cases h with ⟨-, h⟩ | ⟨a, rest, hx, h⟩
  · exact flagsKept_unitTurn h
  · cases a with
    | wr r v =>
      dsimp only at h
      split at h
      · exact (exec_issueResult h).flagsKept.of_same (drawn_cfg _ _ _) (drawn_viol _ _ _) (drawn_halt _ _ _)
          (drawn_cause _ _ _)
      · rw [h]
        exact (flagsKept_hostWrite r v _).of_same rfl rfl rfl rfl
    | rd r => rw [h]; exact .of_eq rfl rfl rfl rfl
    | wait =>
      dsimp only at h
      split at h
      · exact (flagsKept_unitTurn h).of_same rfl rfl rfl rfl
      · rw [h]; exact .of_eq rfl rfl rfl rfl
    | memRd a =>
      obtain ⟨-, -, rfl⟩ := hostMemRead_cases h
      exact .of_eq rfl rfl rfl rfl
    | memWr a b =>
      obtain ⟨-, -, rfl⟩ := hostMemWrite_cases h
      exact .of_eq rfl rfl rfl rfl
    | pass =>
      dsimp only at h
      split at h
      · rw [h]; exact .of_eq rfl rfl rfl rfl
      · exact (flagsKept_unitTurn h).of_same rfl rfl rfl rfl
    | reset => exact absurd hx (hno rest)

/-- Settles O38, from what a reset leaves and what every other step keeps of the flags. -/
theorem onlyResetClearsTheStickyFlags : Obligations.OnlyResetClearsTheStickyFlags := by
  unfold Obligations.OnlyResetClearsTheStickyFlags
  refine ⟨fun s rest hx => ⟨_, step_reset hx, rfl⟩, fun s t h hno => ?_⟩
  obtain ⟨hc, hv, hh, hk, hp⟩ := step_flagsKept h hno
  exact ⟨hv, hh, hk, hc ▸ hp⟩

/-! ### The operand registers and the latched command over a step -/

/-- From `s` to `t` the operand registers and the latched command stay (R11). -/
structure OperandsKept (s t : State) : Prop where
  src : t.src = s.src
  len : t.len = s.len
  dst : t.dst = s.dst
  cap : t.cap = s.cap
  op : t.op = s.op
  lenv : t.lenv = s.lenv

theorem operandsKept_unitTurn {s t : State} (h : unitTurn s = .next t) : OperandsKept s t := by
  obtain ⟨-, hs, hl, hd, hc, ho, hv, -⟩ := unitTurn_keeps h
  exact ⟨hs, hl, hd, hc, ho, hv⟩

/-- A step in which the host neither writes a register nor resets the unit keeps the operands. -/
theorem step_operandsKept {s t : State} (h : step s = .next t) (hwr : ∀ r v rest, s.inbox ≠ .wr r v :: rest)
    (hno : ∀ rest, s.inbox ≠ .reset :: rest) : OperandsKept s t := by
  rcases step_cases h with ⟨-, h⟩ | ⟨a, rest, hx, h⟩
  · exact operandsKept_unitTurn h
  · cases a with
    | wr r v => exact absurd hx (hwr r v rest)
    | rd r => rw [h]; exact ⟨rfl, rfl, rfl, rfl, rfl, rfl⟩
    | wait =>
      dsimp only at h
      split at h
      · obtain ⟨hs, hl, hd, hc, ho, hv⟩ := operandsKept_unitTurn h
        exact ⟨hs, hl, hd, hc, ho, hv⟩
      · rw [h]; exact ⟨rfl, rfl, rfl, rfl, rfl, rfl⟩
    | memRd a =>
      obtain ⟨-, -, rfl⟩ := hostMemRead_cases h
      exact ⟨rfl, rfl, rfl, rfl, rfl, rfl⟩
    | memWr a b =>
      obtain ⟨-, -, rfl⟩ := hostMemWrite_cases h
      exact ⟨rfl, rfl, rfl, rfl, rfl, rfl⟩
    | pass =>
      dsimp only at h
      split at h
      · rw [h]; exact ⟨rfl, rfl, rfl, rfl, rfl, rfl⟩
      · obtain ⟨hs, hl, hd, hc, ho, hv⟩ := operandsKept_unitTurn h
        exact ⟨hs, hl, hd, hc, ho, hv⟩
    | reset => exact absurd hx (hno rest)

theorem step_cfg {s t : State} (h : step s = .next t) : t.cfg = s.cfg := by
  by_cases hr : ∃ rest, s.inbox = .reset :: rest
  · obtain ⟨rest, hx⟩ := hr
    rw [step_reset hx] at h
    cases h
    rfl
  · exact (step_flagsKept h fun rest hx => hr ⟨rest, hx⟩).cfg

/-- Settles O43, by the host's next action. -/
theorem operandsAreTheHostsAlone : Obligations.OperandsAreTheHostsAlone := by
  unfold Obligations.OperandsAreTheHostsAlone
  intro s t h
  refine ⟨step_cfg h, fun hwr hno => ?_⟩
  obtain ⟨hs, hl, hd, hc, ho, hv⟩ := step_operandsKept h hwr hno
  exact ⟨hs, hl, hd, hc, ho, hv⟩

/-! ### The registers the host writes and reads -/

/-- An idle unit refuses a command that reads an operand register holding no value (R31, R58 (a)). -/
theorem issueCommand_operandUnset {s : State} {rl : Bool} (op : BitVec 2) (l : Bool) (n : Nat) (body : State → State)
    (hi : Idle s) (hu : s.operandsHeld rl = false) : issueCommand op l rl n body s = .refused .operandUnset := by
  obtain ⟨hb, hh⟩ := hi
  simp [issueCommand, State.issueRefusal, hb, hh, hu]

theorem exec_resetWith (c : UnitConfig) (i : Instr) : exec i (State.resetWith c) = .refused .operandUnset := by
  have hi : Idle (State.resetWith c) := ⟨rfl, rfl⟩
  have hu (rl : Bool) : (State.resetWith c).operandsHeld rl = false := rfl
  cases i with
  | encb l => rw [exec_encb, issueCommand_operandUnset _ _ _ _ hi (hu _)]
  | decb l => rw [exec_decb, issueCommand_operandUnset _ _ _ _ hi (hu _)]
  | enc l => rw [exec_enc, issueCommand_operandUnset _ _ _ _ hi (hu _)]
  | dec l => rw [exec_dec, issueCommand_operandUnset _ _ _ _ hi (hu _)]

/-- Settles O37: the reset state's fields, the two words the host reads of it, and the refusal of every command. -/
theorem valuesAfterReset : Obligations.ValuesAfterReset := by
  unfold Obligations.ValuesAfterReset
  exact ⟨fun c => ⟨rfl, ctrlWord_toNat _ _, statusWord_toNat _, rfl, rfl, rfl, rfl, rfl, exec_resetWith c⟩,
    fun s => rfl⟩

/-- Settles O40, from the one operation behind the four writable registers. -/
theorem hostWriteSetsOneOperand : Obligations.HostWriteSetsOneOperand := by
  unfold Obligations.HostWriteSetsOneOperand
  intro s v rest hi
  have fits {r w : Nat} (hr : r ≠ 0) (hw : regWidth s.cfg r = some w) (hx : s.inbox = .wr r v :: rest)
      (hv : v < 2 ^ w) : step s = .next (State.setOperand { s with inbox := rest } r v) := by
    obtain ⟨x, f, -, hfit, hstep⟩ := step_wr_operand hi hr hx hw
    obtain ⟨rfl, rfl⟩ := hfit hv
    exact hstep
  refine ⟨fits (by decide) rfl, fits (by decide) rfl, fits (by decide) rfl, fits (by decide) rfl,
    ?_, ?_, ?_, ?_, fun r hr hx => step_wr_ignored hr hx⟩
  all_goals
    intro hx
    obtain ⟨x, f, hlt, -, hstep⟩ := step_wr_operand hi (by decide) hx rfl
    exact ⟨_, hstep, rfl, rfl, hlt⟩

/-- Settles O41: STATUS as a number, with CAUSE by its code. -/
theorem statusWordLayout : Obligations.StatusWordLayout := by
  unfold Obligations.StatusWordLayout
  refine ⟨fun s rest hx => ⟨_, step_rd hx, ?_⟩, fun s v rest hx => step_wr_ignored (by decide) hx⟩
  refine (statusWord_toNat _).trans ?_
  congr 2
  rcases s.cause with _ | _ | _ | _ | _ <;> rfl

/-- Settles O42, register by register. -/
theorem hostReadHasNoSideEffect : Obligations.HostReadHasNoSideEffect := by
  unfold Obligations.HostReadHasNoSideEffect
  intro s r rest hx
  refine ⟨_, step_rd hx, rfl, ?_, ?_, ?_, ?_, ?_, ?_, readReg_of_seven_le _⟩
  · rintro rfl
    exact ctrlWord_toNat _ _
  all_goals
    rintro rfl
    exact ⟨regRead_held _ _, regRead_lt_of_not_held _ _⟩

/-- Settles O49: a byte is written as it is and draws no free value; any other value issues a byte's command too. -/
theorem stepRunsTheDecodedCommand : Obligations.StepRunsTheDecodedCommand := by
  unfold Obligations.StepRunsTheDecodedCommand
  refine ⟨fun s v i rest hx hv hd => ?_, fun s v rest hx =>
    ⟨decodeByte (BitVec.ofNat 8 (s.written 8 v)), (State.drawn { s with inbox := rest } 8 v).free,
      (step_wr_ctrl hx).trans (congrArg (exec _) (drawn_eq _ _ _))⟩⟩
  have hv8 : v < 2 ^ 8 := hv
  have hdec : decodeByte (BitVec.ofNat 8 v) = i := by
    cases hd
    rfl
  rw [step_wr_ctrl hx, written_of_fits s hv8, drawn_of_fits _ hv8, hdec]

end Sys2Proof.Machine

/-! The statements about the memory (20_memory.md): which commands have a meaning, what a step may write, and the accesses of
the host and of other agents. -/

namespace Sys2Proof.Machine

/-! ### The refusal of a command (R58) -/

/-- Every command is issued by the one shared operation (R31, R74), with its own effect. -/
theorem exec_eq_issueCommand (i : Instr) :
    ∃ body, ∀ s, exec i s = issueCommand i.opcode i.lenv (readsLen i) (srcSize s i) body s := by
  cases i with
  | encb l => exact ⟨_, exec_encb l⟩
  | decb l => exact ⟨_, exec_decb l⟩
  | enc l => exact ⟨_, exec_enc l⟩
  | dec l => exact ⟨_, exec_dec l⟩

/-- The issue of a command by an idle unit, where R58 gives it none. -/
theorem issueCommand_refused {s : State} {rl : Bool} {n : Nat} {r : Refusal} (op : BitVec 2) (lenv : Bool)
    (body : State → State) (hi : Idle s) (hr : s.issueRefusal rl n = some r) :
    issueCommand op lenv rl n body s = .refused r := by
  obtain ⟨hb, hh⟩ := hi
  simp [issueCommand, hb, hh, hr]

/-- The names a refusal at issue can have: one for each of (a) to (c) of R58. -/
theorem issueRefusal_some {s : State} {rl : Bool} {n : Nat} {r : Refusal} (h : s.issueRefusal rl n = some r) :
    r = .operandUnset ∨ r = .windowWraps ∨ r = .windowsOverlap := by
  unfold State.issueRefusal at h
  split at h
  · cases h; exact .inl rfl
  · split at h
    · cases h; exact .inr (.inl rfl)
    · split at h
      · cases h; exact .inr (.inr rfl)
      · cases h

/-- A command that R58 gives a meaning answers a next state. -/
theorem exec_of_meaningful {s : State} {i : Instr} (hi : Idle s) (hm : Meaningful s (readsLen i) (srcSize s i)) :
    ∃ t, exec i s = .next t := by
  obtain ⟨body, hexec⟩ := exec_eq_issueCommand i
  exact ⟨_, (hexec s).trans (issueCommand_runs _ _ body hi hm)⟩

/-- A command that R58 gives no meaning is refused. -/
theorem exec_of_not_meaningful {s : State} {i : Instr} (hi : Idle s)
    (hm : ¬ Meaningful s (readsLen i) (srcSize s i)) :
    ∃ r, exec i s = .refused r ∧ (r = .operandUnset ∨ r = .windowWraps ∨ r = .windowsOverlap) := by
  rw [← issueRefusal_none] at hm
  obtain ⟨r, hr⟩ := Option.ne_none_iff_exists'.1 hm
  obtain ⟨body, hexec⟩ := exec_eq_issueCommand i
  exact ⟨r, (hexec s).trans (issueCommand_refused _ _ body hi hr), issueRefusal_some hr⟩

/-- Settles O30, by whether R58 gives the command a meaning. -/
theorem refusedExactlyWhereMeaningless : Obligations.RefusedExactlyWhereMeaningless := by
  unfold Obligations.RefusedExactlyWhereMeaningless
  intro i s hi
  refine ⟨⟨exec_of_meaningful hi, fun ⟨t, ht⟩ => ?_⟩, fun hm => ?_⟩
  · by_contra hm
    obtain ⟨r, hr, -⟩ := exec_of_not_meaningful hi hm
    rw [ht] at hr
    cases hr
  · obtain ⟨r, hr, rfl | rfl | rfl⟩ := exec_of_not_meaningful hi hm
    · exact .inl hr
    · exact .inr (.inl hr)
    · exact .inr (.inr hr)

/-! ### The write frame (R51) -/

/-- Bytes stored at a counter that leaves them room in the destination window change nothing outside it. -/
theorem sameOutside_write_window {m : List Host.Cell} {base cap w : Nat} {bs : List Byte} (hm : Memory.wf m = true)
    (hroom : w + bs.length ≤ cap) : SameOutside m (Memory.write m (base + w) bs) base cap :=
  (sameOutside_write m (base + w) bs.length bs hm le_rfl).mono (by omega) (by omega)

theorem IssueResult.sameOutside {s t : State} {i : Instr} (h : IssueResult s i t) (hm : Memory.wf s.mem = true) :
    SameOutside s.mem t.mem s.dst.val s.cap.val := by
  cases h with
  | lost hb => exact .refl _ _ _
  | violated k hi => exact .refl _ _ _
  | completed bs r f hi hmean hd hcap hr => exact sameOutside_write _ _ _ bs hm hcap
  | started hi hmean hl hs hd hn hop => exact .refl _ _ _

/-- A group of DEC with three bytes of capacity left (R137). -/
theorem sameOutside_decGroup {s : State} (hm : Memory.wf s.mem = true) (hroom : s.wpos + 3 ≤ s.cap.val) :
    SameOutside s.mem (decGroup s).mem s.dst.val s.cap.val := by
  rcases decGroup_cases s with e | ⟨bs, n, hq, -, e⟩
  · rw [e]
    exact .refl _ _ _
  · obtain ⟨cs, hlen, hw⟩ := havoc_write_eq_write s.mem (s.dst.val + s.wpos) s.free hq
    rw [e, advance_mem, havoc_mem, store_mem, store_free, hw]
    exact sameOutside_write_window hm (hlen ▸ hroom)

/-- A step of a running command writes inside its destination window: ENC by the capacity checked at issue (R132), DEC by
the guard of its block step (R137). -/
theorem sameOutside_streamStep {s t : State} (hm : Memory.wf s.mem = true) (hr : Running s)
    (h : streamStep s = .next t) : SameOutside s.mem t.mem s.dst.val s.cap.val := by
  rcases streamStep_cases h with ⟨ho, hlt, h⟩ | ⟨ho, heq, h⟩ | ⟨-, -, h⟩ | ⟨-, -, h⟩
  · obtain ⟨-, hcap, -, hbound, hw⟩ := encRunning_of_op hr ho
    obtain ⟨-, -, rfl⟩ := encBlockStep_cases h
    exact sameOutside_write_window hm (by rw [blockChars_length]; omega)
  · obtain ⟨-, hcap, -, -, hw⟩ := encRunning_of_op hr ho
    obtain ⟨-, rfl⟩ := encFinishStep_cases h
    exact sameOutside_write_window hm (by rw [List.length_singleton]; omega)
  · rcases decBlockStep_cases h with ⟨-, rfl⟩ | ⟨hroom, -, -, rfl⟩
    · exact .refl _ _ _
    · exact sameOutside_decGroup hm (by omega)
  · cases h
    exact .refl _ _ _

theorem sameOutside_unitTurn {s t : State} (h : Invariant s) (ht : unitTurn s = .next t) :
    SameOutside s.mem t.mem s.dst.val s.cap.val := by
  obtain ⟨-, ⟨hb, ht⟩ | ⟨-, rfl⟩⟩ := unitTurn_cases ht
  · exact sameOutside_streamStep h.memWf (h.running hb) ht
  · exact .refl _ _ _

theorem hostWrite_mem (r v : Nat) (s : State) : (hostWrite r v s).mem = s.mem := by
  obtain ⟨a, l, d, c, f, e⟩ := hostWrite_frame r v s
  rw [e]

/-- Settles O44, by the host's next action: the issue of a command and the unit's turn alone write. -/
theorem onlyTheDestinationWindowIsWritten : Obligations.OnlyTheDestinationWindowIsWritten := by
  unfold Obligations.OnlyTheDestinationWindowIsWritten
  intro s t h ht hno
  rcases step_cases ht with ⟨-, ht⟩ | ⟨a, rest, hx, ht⟩
  · exact sameOutside_unitTurn h ht
  · cases a with
    | wr r v =>
      dsimp only at ht
      split at ht
      · simpa using (exec_issueResult ht).sameOutside ((h.inbox rest).drawn 8 v).memWf
      · rw [ht, hostWrite_mem]
        exact .refl _ _ _
    | rd r => exact ht ▸ .refl _ _ _
    | wait =>
      dsimp only at ht
      split at ht
      · exact sameOutside_unitTurn (s := s.hostRead 6) (h.hostRead 6) ht
      · exact ht ▸ .refl _ _ _
    | memRd a =>
      obtain ⟨-, -, rfl⟩ := hostMemRead_cases ht
      exact .refl _ _ _
    | memWr a b => exact absurd hx (hno a b rest)
    | pass =>
      dsimp only at ht
      split at ht
      · exact ht ▸ .refl _ _ _
      · exact sameOutside_unitTurn (s := { s with inbox := rest }) (h.inbox rest) ht
    | reset => exact ht ▸ .refl _ _ _

/-! ### The memory accesses of the host (R40, R200) -/

theorem step_memRd {s : State} {a : Nat} {rest : List HostAction} (hx : s.inbox = .memRd a :: rest) :
    step s = hostMemRead a { s with inbox := rest } := by
  simp [step, takeTurn, hx]

theorem step_memWr {s : State} {a : Nat} {b : Byte} {rest : List HostAction} (hx : s.inbox = .memWr a b :: rest) :
    step s = hostMemWrite a b { s with inbox := rest } := by
  simp [step, takeTurn, hx]

/-- A host memory read, by whether the address exists and whether it is barred. -/
theorem hostMemRead_eq (a : Nat) (s : State) :
    hostMemRead a s =
      if 2 ^ s.cfg.aw ≤ a then .fault .noSuchAddress
      else if s.readBarred a then .refused .windowShared
      else .next { s with rdata := (Memory.readByte s.mem a).toNat } := by
  simp [hostMemRead, UnitConfig.inSpace]

/-- A host memory write, by whether the address exists and whether it is barred. -/
theorem hostMemWrite_eq (a : Nat) (b : Byte) (s : State) :
    hostMemWrite a b s =
      if 2 ^ s.cfg.aw ≤ a then .fault .noSuchAddress
      else if s.writeBarred a then .refused .windowShared
      else .next { s with mem := Memory.writeByte s.mem a b } := by
  simp [hostMemWrite, UnitConfig.inSpace]

theorem readBarred_iff (s : State) (a : Nat) :
    s.readBarred a = true ↔ ∃ w ∈ s.leases, w.dst ≤ a ∧ a < w.dst + w.dstLen := by
  simp [State.readBarred, inWindow]

theorem writeBarred_iff (s : State) (a : Nat) :
    s.writeBarred a = true ↔
      ∃ w ∈ s.leases, (w.src ≤ a ∧ a < w.src + w.srcLen) ∨ (w.dst ≤ a ∧ a < w.dst + w.dstLen) := by
  simp [State.writeBarred, inWindow]

/-- Settles O45: a barred address is one in a window of `leases`, and the windows of a running command stand there. -/
theorem sharedWindowAccessIsRefused : Obligations.SharedWindowAccessIsRefused := by
  unfold Obligations.SharedWindowAccessIsRefused
  refine ⟨fun s a b rest ha => ⟨fun hx => ?_, fun hx => ?_⟩, fun s h hb => (h.running hb).leased⟩
  · rw [step_memWr hx, hostMemWrite_eq, if_neg (Nat.not_le.2 ha)]
    simp only [writeBarred_iff]
    split_ifs <;> rfl
  · rw [step_memRd hx, hostMemRead_eq, if_neg (Nat.not_le.2 ha)]
    simp only [readBarred_iff]
    split_ifs <;> rfl

/-- Settles O47, from the memory's rules for a byte read after a write and the two accesses by their cases. -/
theorem hostReachesTheMemory : Obligations.HostReachesTheMemory := by
  unfold Obligations.HostReachesTheMemory
  intro s a b rest hm
  refine ⟨fun hl ha => ⟨fun hx => ?_, fun hx => ?_⟩, fun ha hx => ?_⟩
  · refine ⟨{ s with inbox := rest, mem := Memory.writeByte s.mem a b }, ?_, rfl, readByte_writeByte_same _ _ _ hm,
      sameOutside_write _ _ _ [b] hm le_rfl⟩
    rw [step_memWr hx, hostMemWrite_eq, if_neg (Nat.not_le.2 ha), if_neg (by simp [writeBarred_iff, hl])]
  · rw [step_memRd hx, hostMemRead_eq, if_neg (Nat.not_le.2 ha), if_neg (by simp [readBarred_iff, hl])]
  · rcases hx with hx | hx
    · rw [step_memWr hx, hostMemWrite_eq, if_pos ha]
    · rw [step_memRd hx, hostMemRead_eq, if_pos ha]

/-! ### How long the windows stay barred (R194) -/

/-- An issue that is not lost adds the command's windows, whatever becomes of the command. -/
theorem IssueResult.leases_of_idle {s t : State} {i : Instr} (h : IssueResult s i t) (hi : Idle s) :
    t.leases = s.windows (srcSize s i) :: s.leases := by
  cases h with
  | lost hb =>
    obtain ⟨hb', hh⟩ := hi
    simp [hb', hh] at hb
  | violated k hi => rfl
  | completed bs r f hi hm hd hcap hr => rfl
  | started hi hm hl hs hd hn hop => rfl

theorem IssueResult.leases_subset {s t : State} {i : Instr} (h : IssueResult s i t) : s.leases ⊆ t.leases := by
  cases h with
  | lost hb => exact List.Subset.refl _
  | violated k hi => exact List.subset_cons_self _ _
  | completed bs r f hi hm hd hcap hr => exact List.subset_cons_self _ _
  | started hi hm hl hs hd hn hop => exact List.subset_cons_self _ _

theorem unitTurn_leases {s t : State} (h : unitTurn s = .next t) : t.leases = s.leases := by
  obtain ⟨-, -, -, -, -, -, -, -, -, hl, -⟩ := unitTurn_keeps h
  exact hl

theorem hostWrite_leases (r v : Nat) (s : State) : (hostWrite r v s).leases = s.leases := by
  obtain ⟨a, l, d, c, f, e⟩ := hostWrite_frame r v s
  rw [e]

/-- WAIT by a unit with BUSY = 0 is a read of STATUS (R78). -/
theorem step_wait_idle {s : State} {rest : List HostAction} (hb : s.busy = false) (hx : s.inbox = .wait :: rest) :
    step s = .next (State.hostRead { s with inbox := rest } 6) := by
  simp [step, takeTurn, hx, hb]

/-- A step keeps every barred window unless the host reads STATUS with BUSY = 0. -/
theorem step_leases_subset {s t : State} (h : step s = .next t)
    (hno : s.busy = false → ∀ rest, s.inbox ≠ .rd 6 :: rest ∧ s.inbox ≠ .wait :: rest) : s.leases ⊆ t.leases := by
  rcases step_cases h with ⟨-, h⟩ | ⟨a, rest, hx, h⟩
  · exact unitTurn_leases h ▸ List.Subset.refl _
  · cases a with
    | wr r v =>
      dsimp only at h
      split at h
      · simpa using (exec_issueResult h).leases_subset
      · rw [h, hostWrite_leases]
        exact List.Subset.refl _
    | rd r =>
      have hr : ¬ (r = 6 ∧ s.busy = false) := by
        rintro ⟨rfl, hb⟩
        exact (hno hb rest).1 hx
      rw [h, hostRead_leases, if_neg hr]
      exact List.Subset.refl _
    | wait =>
      have hb : s.busy = true := by
        by_contra hb
        exact (hno (by simpa using hb) rest).2 hx
      simp only [hb, if_true] at h
      rw [unitTurn_leases h, hostRead_leases, if_neg (by simp [hb])]
      exact List.Subset.refl _
    | memRd a =>
      obtain ⟨-, -, rfl⟩ := hostMemRead_cases h
      exact List.Subset.refl _
    | memWr a b =>
      obtain ⟨-, -, rfl⟩ := hostMemWrite_cases h
      exact List.Subset.refl _
    | pass =>
      dsimp only at h
      split at h
      · exact h ▸ List.Subset.refl _
      · exact unitTurn_leases h ▸ List.Subset.refl _
    | reset => exact h ▸ List.Subset.refl _

/-- Settles O46: a read of BUSY = 0 frees every window, and every other step keeps them. -/
theorem windowsStayBarredUntilBusyIsReadZero : Obligations.WindowsStayBarredUntilBusyIsReadZero := by
  unfold Obligations.WindowsStayBarredUntilBusyIsReadZero
  refine ⟨fun i s t hi h => (exec_issueResult h).leases_of_idle hi, fun s t h => ?_⟩
  by_cases hread : s.busy = false ∧ ∃ rest, s.inbox = .rd 6 :: rest ∨ s.inbox = .wait :: rest
  · obtain ⟨hb, rest, hx⟩ := hread
    refine .inr ⟨?_, hb, rest, hx⟩
    have ht : t = State.hostRead { s with inbox := rest } 6 := by
      rcases hx with hx | hx
      · rw [step_rd hx] at h
        cases h
        rfl
      · rw [step_wait_idle hb hx] at h
        cases h
        rfl
    rw [ht, hostRead_leases]
    exact if_pos ⟨rfl, hb⟩
  · exact .inl (step_leases_subset h fun hb rest =>
      ⟨fun hx => hread ⟨hb, rest, .inl hx⟩, fun hx => hread ⟨hb, rest, .inr hx⟩⟩)

end Sys2Proof.Machine

/-! The statements about the encoding (30_encoding.md): the command word, the two tables, what enc24 and dec32 make of a
block, and the host's WAIT. -/

namespace Sys2Proof.Machine

/-! ### The command word (R73 to R77) -/

theorem ctrlOp_ctrlWord : ∀ (op : BitVec 2) (l : Bool), ctrlOp (ctrlWord op l) = op := by decide

theorem ctrlLenv_ctrlWord : ∀ (op : BitVec 2) (l : Bool), ctrlLenv (ctrlWord op l) = l := by decide

theorem decodeByte_encodeByte (i : Instr) : decodeByte (encodeByte i) = i := by
  simp only [decodeByte, encodeByte, ctrlOp_ctrlWord, ctrlLenv_ctrlWord]
  cases i <;> rfl

/-- OP is what mask 0x03 leaves of a command word (R74). -/
theorem ctrlOp_eq_iff (w : Byte) (op : BitVec 2) : ctrlOp w = op ↔ w &&& 0x03#8 = op.setWidth 8 := by
  revert w op
  decide +kernel

/-- Only bits 2 to 0 of a command word select the command (R75). -/
theorem decodeByte_and_seven (w : Byte) : decodeByte (w &&& 0x07#8) = decodeByte w := by
  have hop : ctrlOp (w &&& 0x07#8) = ctrlOp w :=
    (ctrlOp_eq_iff _ _).2 ((BitVec.and_assoc w _ _).trans ((ctrlOp_eq_iff w _).1 rfl))
  have hlenv : ctrlLenv (w &&& 0x07#8) = ctrlLenv w := by simp [ctrlLenv]
  simp only [decodeByte, hop, hlenv]

/-- Settles O1: decoding the one byte of an encoding gives the command back. -/
theorem encodeThenDecodeGivesTheCommand : Obligations.EncodeThenDecodeGivesTheCommand := by
  unfold Obligations.EncodeThenDecodeGivesTheCommand
  intro i rest _
  simp [encode, decode, decodeByte_encodeByte]

/-- Settles O2: OP read under its mask. -/
theorem opcodeMapUnderItsMask : Obligations.OpcodeMapUnderItsMask := by
  unfold Obligations.OpcodeMapUnderItsMask
  intro w rest
  simp only [decode, decodeByte, ctrlOp_eq_iff]
  rfl

/-- Settles O3: a byte decodes as its bits 2 to 0 alone do. -/
theorem noIllegalWordAndReservedBitsIgnored : Obligations.NoIllegalWordAndReservedBitsIgnored := by
  unfold Obligations.NoIllegalWordAndReservedBitsIgnored
  refine ⟨fun w rest => ⟨decodeByte w, rfl⟩, fun w w' rest h => ?_⟩
  have hbyte : decodeByte w = decodeByte w' :=
    calc decodeByte w = decodeByte (w &&& 0x07#8) := (decodeByte_and_seven w).symm
      _ = decodeByte (w' &&& 0x07#8) := congrArg decodeByte h
      _ = decodeByte w' := decodeByte_and_seven w'
  simp only [decode, hbyte]

/-- Settles O4: eight words, decoded. -/
theorem commandWordsOfTheCalls : Obligations.CommandWordsOfTheCalls := by
  unfold Obligations.CommandWordsOfTheCalls
  decide

/-! ### The tables (R66 to R70) -/

theorem rev_eq_idx_iff (c : Byte) (i : Sextet) : rev c = .idx i ↔ alpha i = c :=
  ⟨alpha_of_rev, fun h => h ▸ rev_alpha i⟩

theorem rev_eq_pad_iff (c : Byte) : rev c = .pad ↔ c = 0x3D#8 :=
  ⟨pad_of_rev, fun h => h ▸ rev_pad⟩

/-- A code in none of the ranges of the alphabet, and not the pad's, is no character of a text (R68). -/
theorem rev_eq_invalid {c : Byte} (hplus : c.toNat ≠ 0x2B) (hslash : c.toNat ≠ 0x2F) (hpad : c.toNat ≠ 0x3D)
    (hdigit : ¬ (0x30 ≤ c.toNat ∧ c.toNat ≤ 0x39)) (hupper : ¬ (0x41 ≤ c.toNat ∧ c.toNat ≤ 0x5A))
    (hlower : ¬ (0x61 ≤ c.toNat ∧ c.toNat ≤ 0x7A)) : rev c = .invalid := by
  simp only [rev, hplus, hslash, hpad, hdigit, hupper, hlower, if_false]

/-- Settles O5: the 64 entries, evaluated. -/
theorem alphabetTableAsListed : Obligations.AlphabetTableAsListed := by
  unfold Obligations.AlphabetTableAsListed
  decide

/-- Settles O7: REV inverts ALPHA entry by entry; the 191 invalid codes are counted. -/
theorem reverseTableInvertsTheAlphabet : Obligations.ReverseTableInvertsTheAlphabet := by
  unfold Obligations.ReverseTableInvertsTheAlphabet
  refine ⟨rev_eq_idx_iff, rev_eq_pad_iff, by decide +kernel, fun i => ?_, rfl, rfl⟩
  have hi : i.toNat < 2 ^ 7 := Nat.lt_trans i.isLt (by decide)
  exact (BitVec.toNat_setWidth 7 i).trans (Nat.mod_eq_of_lt hi)

/-! ### What dec32 makes of a block, by its four characters (R71, R72, R110, R111) -/

theorem dec32_no_pad {c0 c1 c2 c3 : Byte} {a b c e : Sextet} (h0 : rev c0 = .idx a) (h1 : rev c1 = .idx b)
    (h2 : rev c2 = .idx c) (h3 : rev c3 = .idx e) :
    dec32 (c0 ++ c1 ++ c2 ++ c3) =
      some ([a ++ b.extractLsb' 4 2, b.extractLsb' 0 4 ++ c.extractLsb' 2 4, c.extractLsb' 0 2 ++ e], 3) := by
  simp only [dec32, block_char0, block_char1, block_char2, block_char3, h0, h1, h2, h3, groupBytes_joinSextets]
  rfl

theorem dec32_one_pad {c0 c1 c2 c3 : Byte} {a b c : Sextet} (h0 : rev c0 = .idx a) (h1 : rev c1 = .idx b)
    (h2 : rev c2 = .idx c) (h3 : rev c3 = .pad) :
    dec32 (c0 ++ c1 ++ c2 ++ c3) = some ([a ++ b.extractLsb' 4 2, b.extractLsb' 0 4 ++ c.extractLsb' 2 4], 2) := by
  simp only [dec32, block_char0, block_char1, block_char2, block_char3, h0, h1, h2, h3, groupBytes_joinSextets]
  rfl

theorem dec32_two_pads {c0 c1 c2 c3 : Byte} {a b : Sextet} (h0 : rev c0 = .idx a) (h1 : rev c1 = .idx b)
    (h2 : rev c2 = .pad) (h3 : rev c3 = .pad) :
    dec32 (c0 ++ c1 ++ c2 ++ c3) = some ([a ++ b.extractLsb' 4 2], 1) := by
  simp only [dec32, block_char0, block_char1, block_char2, block_char3, h0, h1, h2, h3, groupBytes_joinSextets]
  rfl

/-- A block that decodes has two alphabet characters in front, and then no pad, one at the end, or two (R71). -/
theorem dec32_some_chars {q : Block} {r : List Byte × Nat} (h : dec32 q = some r) :
    ∃ a b, rev (q.extractLsb' 24 8) = .idx a ∧ rev (q.extractLsb' 16 8) = .idx b ∧
      ((∃ c, rev (q.extractLsb' 8 8) = .idx c ∧ ∃ e, rev (q.extractLsb' 0 8) = .idx e) ∨
        (∃ c, rev (q.extractLsb' 8 8) = .idx c ∧ rev (q.extractLsb' 0 8) = .pad) ∨
        (rev (q.extractLsb' 8 8) = .pad ∧ rev (q.extractLsb' 0 8) = .pad)) := by
  unfold dec32 at h
  split at h
  case h_1 a b c e h0 h1 h2 h3 => exact ⟨a, b, h0, h1, .inl ⟨c, h2, e, h3⟩⟩
  case h_2 a b c h0 h1 h2 h3 => exact ⟨a, b, h0, h1, .inr (.inl ⟨c, h2, h3⟩)⟩
  case h_3 a b h0 h1 h2 h3 => exact ⟨a, b, h0, h1, .inr (.inr ⟨h2, h3⟩)⟩
  case h_4 => cases h

/-- A pad in position 0 or 1 makes a block malformed (R67). -/
theorem dec32_pad_in_front {q : Block} (h : q.extractLsb' 24 8 = 0x3D#8 ∨ q.extractLsb' 16 8 = 0x3D#8) :
    dec32 q = none := by
  refine Option.eq_none_iff_forall_not_mem.2 fun r hr => ?_
  obtain ⟨a, b, h0, h1, -⟩ := dec32_some_chars hr
  rcases h with h | h
  · rw [h, rev_pad] at h0
    cases h0
  · rw [h, rev_pad] at h1
    cases h1

/-- A character that is none of the text makes its block malformed (R70). -/
theorem dec32_invalid_char {q : Block} (h : rev (q.extractLsb' 24 8) = .invalid ∨ rev (q.extractLsb' 16 8) = .invalid ∨
    rev (q.extractLsb' 8 8) = .invalid ∨ rev (q.extractLsb' 0 8) = .invalid) : dec32 q = none := by
  refine Option.eq_none_iff_forall_not_mem.2 fun r hr => ?_
  obtain ⟨a, b, h0, h1, ⟨c, h2, e, h3⟩ | ⟨c, h2, h3⟩ | ⟨h2, h3⟩⟩ := dec32_some_chars hr <;>
    simp [h0, h1, h2, h3] at h

/-- A pad in position 2 wants a pad in position 3 (R71). -/
theorem dec32_pad_not_last {q : Block} (h2 : q.extractLsb' 8 8 = 0x3D#8) (h3 : q.extractLsb' 0 8 ≠ 0x3D#8) :
    dec32 q = none := by
  refine Option.eq_none_iff_forall_not_mem.2 fun r hr => ?_
  obtain ⟨a, b, -, -, ⟨c, h2c, -⟩ | ⟨c, h2c, -⟩ | ⟨-, h3p⟩⟩ := dec32_some_chars hr
  · rw [h2, rev_pad] at h2c
    cases h2c
  · rw [h2, rev_pad] at h2c
    cases h2c
  · exact h3 (pad_of_rev h3p)

/-- A character of a text other than the pad is an alphabet character (R68). -/
theorem rev_eq_idx_of_ne_pad {c : Byte} (hinv : rev c ≠ .invalid) (hpad : c ≠ 0x3D#8) : ∃ a, rev c = .idx a := by
  cases hc : rev c with
  | idx a => exact ⟨a, rfl⟩
  | pad => exact absurd (pad_of_rev hc) hpad
  | invalid => exact absurd hc hinv

/-- Settles O8: the characters of a block that decodes are none of them invalid; the codes named are in no range. -/
theorem invalidCharacterMakesBlockMalformed : Obligations.InvalidCharacterMakesBlockMalformed := by
  unfold Obligations.InvalidCharacterMakesBlockMalformed
  refine ⟨fun q => dec32_invalid_char, fun c hc => ?_⟩
  rcases hc with hlow | hhigh | rfl | rfl | rfl
  · apply rev_eq_invalid <;> omega
  · apply rev_eq_invalid <;> omega
  all_goals rfl

/-- Settles O9, along the pad patterns. -/
theorem legalPadPatterns : Obligations.LegalPadPatterns := by
  unfold Obligations.LegalPadPatterns
  intro c0 c1 c2 c3 hc0 hc1 hc2 hc3
  by_cases hfront : c0 = 0x3D#8 ∨ c1 = 0x3D#8
  · rw [if_pos hfront, dec32_pad_in_front (by rwa [block_char0, block_char1])]
    rfl
  · obtain ⟨a, h0⟩ := rev_eq_idx_of_ne_pad hc0 fun h => hfront (.inl h)
    obtain ⟨b, h1⟩ := rev_eq_idx_of_ne_pad hc1 fun h => hfront (.inr h)
    rw [if_neg hfront]
    by_cases hp2 : c2 = 0x3D#8
    · rw [if_pos hp2]
      by_cases hp3 : c3 = 0x3D#8
      · rw [if_pos hp3, dec32_two_pads h0 h1 (hp2 ▸ rev_pad) (hp3 ▸ rev_pad)]
        rfl
      · rw [if_neg hp3, dec32_pad_not_last (by rwa [block_char2]) (by rwa [block_char3])]
        rfl
    · obtain ⟨c, h2⟩ := rev_eq_idx_of_ne_pad hc2 hp2
      rw [if_neg hp2]
      by_cases hp3 : c3 = 0x3D#8
      · rw [if_pos hp3, dec32_one_pad h0 h1 h2 (hp3 ▸ rev_pad)]
        rfl
      · obtain ⟨e, h3⟩ := rev_eq_idx_of_ne_pad hc3 hp3
        rw [if_neg hp3, dec32_no_pad h0 h1 h2 h3]
        rfl

/-! ### The sextets of a group (R61 to R64, R90) -/

theorem group_sextet0 (b0 b1 b2 : Byte) : (b0 ++ b1 ++ b2 : Group).extractLsb' 18 6 = b0.extractLsb' 2 6 := by
  ext i hi; simp; grind

theorem group_sextet1 (b0 b1 b2 : Byte) :
    (b0 ++ b1 ++ b2 : Group).extractLsb' 12 6 = b0.extractLsb' 0 2 ++ b1.extractLsb' 4 4 := by
  ext i hi; simp; grind

theorem group_sextet2 (b0 b1 b2 : Byte) :
    (b0 ++ b1 ++ b2 : Group).extractLsb' 6 6 = b1.extractLsb' 0 4 ++ b2.extractLsb' 6 2 := by
  ext i hi; simp; grind

theorem group_sextet3 (b0 b1 b2 : Byte) : (b0 ++ b1 ++ b2 : Group).extractLsb' 0 6 = b2.extractLsb' 0 6 := by
  ext i hi; simp; grind

/-- The mask of two bytes clears the third (R64). -/
theorem and_groupMask_two (b0 b1 b2 : Byte) : (b0 ++ b1 ++ b2) &&& groupMask 2 = b0 ++ b1 ++ 0x00#8 := by
  have h : groupMask 2 = BitVec.allOnes 8 ++ BitVec.allOnes 8 ++ 0x00#8 := by decide
  rw [h, BitVec.and_append, BitVec.and_append, BitVec.and_allOnes, BitVec.and_allOnes, BitVec.and_zero]

/-- The mask of one byte clears the other two (R64). -/
theorem and_groupMask_one (b0 b1 b2 : Byte) : (b0 ++ b1 ++ b2) &&& groupMask 1 = b0 ++ 0x00#8 ++ 0x00#8 := by
  have h : groupMask 1 = BitVec.allOnes 8 ++ 0x00#8 ++ 0x00#8 := by decide
  rw [h, BitVec.and_append, BitVec.and_append, BitVec.and_allOnes, BitVec.and_zero, BitVec.and_zero]

theorem enc24_three (b0 b1 b2 : Byte) :
    enc24 (b0 ++ b1 ++ b2) 3 =
      alpha (b0.extractLsb' 2 6) ++ alpha (b0.extractLsb' 0 2 ++ b1.extractLsb' 4 4) ++
        alpha (b1.extractLsb' 0 4 ++ b2.extractLsb' 6 2) ++ alpha (b2.extractLsb' 0 6) := by
  simp only [enc24, and_groupMask_three, group_sextet0, group_sextet1, group_sextet2, group_sextet3]
  rfl

theorem enc24_two (b0 b1 b2 : Byte) :
    enc24 (b0 ++ b1 ++ b2) 2 =
      alpha (b0.extractLsb' 2 6) ++ alpha (b0.extractLsb' 0 2 ++ b1.extractLsb' 4 4) ++
        alpha (b1.extractLsb' 0 4 ++ 0#2) ++ 0x3D#8 := by
  simp only [enc24, and_groupMask_two, group_sextet0, group_sextet1, group_sextet2]
  rfl

theorem enc24_one (b0 b1 b2 : Byte) :
    enc24 (b0 ++ b1 ++ b2) 1 =
      alpha (b0.extractLsb' 2 6) ++ alpha (b0.extractLsb' 0 2 ++ 0#4) ++ 0x3D#8 ++ 0x3D#8 := by
  simp only [enc24, and_groupMask_one, group_sextet0, group_sextet1]
  rfl

/-- The first two characters of an encoded block are alphabet characters (R90). -/
theorem enc24_front (d : Group) (n : Nat) :
    ∃ a b, (enc24 d n).extractLsb' 24 8 = alpha a ∧ (enc24 d n).extractLsb' 16 8 = alpha b :=
  ⟨_, _, block_char0 _ _ _ _, block_char1 _ _ _ _⟩

/-- Settles O10, count by count. -/
theorem encodedBlockOfTheBytes : Obligations.EncodedBlockOfTheBytes := by
  unfold Obligations.EncodedBlockOfTheBytes
  exact fun b0 b1 b2 => ⟨enc24_three b0 b1 b2, enc24_two b0 b1 b2, enc24_one b0 b1 b2⟩

/-- Settles O6, from the alphabet characters in front of every block that is made or decoded. -/
theorem padCharacterOnlyInTheLastTwoPlaces : Obligations.PadCharacterOnlyInTheLastTwoPlaces := by
  unfold Obligations.PadCharacterOnlyInTheLastTwoPlaces
  refine ⟨rfl, alpha_ne_pad, fun d n _ => ?_, fun q => dec32_pad_in_front⟩
  obtain ⟨a, b, h0, h1⟩ := enc24_front d n
  rw [h0, h1]
  exact ⟨alpha_ne_pad a, alpha_ne_pad b⟩

/-- Settles O12: the decoded bytes pattern by pattern, and the zero bits enc24 puts where dec32 discards. -/
theorem decodedBytesOfTheSextets : Obligations.DecodedBytesOfTheSextets := by
  unfold Obligations.DecodedBytesOfTheSextets
  refine ⟨fun a b c e => ?_, fun d => ?_, fun d => ?_⟩
  · have ha := rev_alpha a
    have hb := rev_alpha b
    have hc := rev_alpha c
    exact ⟨dec32_no_pad ha hb hc (rev_alpha e), dec32_one_pad ha hb hc rev_pad, dec32_two_pads ha hb rev_pad rev_pad⟩
  · rw [← group_eta d, enc24_two]
    exact ⟨_, _, _, BitVec.extractLsb'_append_eq_right, rfl⟩
  · rw [← group_eta d, enc24_one]
    exact ⟨_, _, BitVec.extractLsb'_append_eq_right, rfl⟩

/-! ### WAIT and the unit's own turn (R78, R130) -/

/-- An outcome with the host actions `r` in the next state. -/
def withInbox (r : List HostAction) : Host.Outcome State Fault Refusal → Host.Outcome State Fault Refusal
  | .next t => .next { t with inbox := r }
  | .fault f => .fault f
  | .refused f => .refused f

theorem encBlockStep_inbox (s : State) (r : List HostAction) :
    encBlockStep { s with inbox := r } = withInbox r (encBlockStep s) := by
  unfold encBlockStep
  rw [apply_ite (withInbox r)]
  rfl

theorem encFinishStep_inbox (s : State) (r : List HostAction) :
    encFinishStep { s with inbox := r } = withInbox r (encFinishStep s) := by
  unfold encFinishStep
  rw [apply_ite (withInbox r)]
  rfl

theorem decGroup_inbox (s : State) (r : List HostAction) :
    decGroup { s with inbox := r } = { decGroup s with inbox := r } := by
  unfold decGroup
  dsimp only
  split
  · rfl
  · split <;> rfl

theorem decBlockStep_inbox (s : State) (r : List HostAction) :
    decBlockStep { s with inbox := r } = withInbox r (decBlockStep s) := by
  unfold decBlockStep
  rw [apply_ite (withInbox r), apply_ite (withInbox r), decGroup_inbox]
  rfl

theorem streamStep_inbox (s : State) (r : List HostAction) :
    streamStep { s with inbox := r } = withInbox r (streamStep s) := by
  unfold streamStep
  simp only [apply_ite (withInbox r), encBlockStep_inbox, encFinishStep_inbox, decBlockStep_inbox]
  rfl

/-- The unit does not look at the host actions still to come (R201). -/
theorem unitTurn_inbox (s : State) (r : List HostAction) :
    unitTurn { s with inbox := r } = withInbox r (unitTurn s) := by
  unfold unitTurn
  simp only [apply_ite (withInbox r), streamStep_inbox]
  rfl

/-- Both windows of the next ENC block step lie in the memory (R133). -/
theorem encBlockStep_enabled {s : State} (hr : Running s) (he : EncRunning s) (hlt : s.rpos < s.len.val) :
    ∃ t, encBlockStep s = .next t := by
  have hs := hr.srcFits
  have hd := hr.dstFits
  have hwin : s.encWindow ≤ s.len.val - s.rpos := Nat.min_le_right _ _
  obtain ⟨-, hcap, -, hbound, hw⟩ := he
  refine ⟨_, if_pos ?_⟩
  simp only [UnitConfig.inSpace, Bool.and_eq_true, decide_eq_true_eq]
  omega

/-- There is room for the terminator (R134). -/
theorem encFinishStep_enabled {s : State} (hr : Running s) (he : EncRunning s) (heq : s.rpos = s.len.val) :
    ∃ t, encFinishStep s = .next t := by
  have hd := hr.dstFits
  obtain ⟨-, hcap, -, -, hw⟩ := he
  refine ⟨_, if_pos ?_⟩
  simp only [UnitConfig.inSpace, decide_eq_true_eq]
  omega

/-- A DEC block step meets its capacity guard, or both its windows lie in the memory (R137). -/
theorem decBlockStep_enabled {s : State} (hr : Running s) (hdec : DecRunning s) (hlt : s.rpos < s.len.val) :
    ∃ t, decBlockStep s = .next t := by
  have hs := hr.srcFits
  have hd := hr.dstFits
  obtain ⟨-, hmod, -, hrmod, -, -, -⟩ := hdec
  by_cases hc : s.cap.val - s.wpos < 3
  · exact ⟨_, if_pos hc⟩
  · refine ⟨_, (if_neg hc).trans (if_pos ?_)⟩
    simp only [UnitConfig.inSpace, Bool.and_eq_true, decide_eq_true_eq]
    omega

/-- While a command runs, a step of it is enabled (R130). -/
theorem streamStep_enabled {s : State} (hr : Running s) : ∃ t, streamStep s = .next t := by
  rcases hr.progress with he | hd
  · rcases Nat.lt_or_eq_of_le he.rposLe with hlt | heq
    · simpa [streamStep, he.op, hlt] using encBlockStep_enabled hr he hlt
    · simpa [streamStep, he.op, heq] using encFinishStep_enabled hr he heq
  · rcases Nat.lt_or_eq_of_le hd.rposLe with hlt | heq
    · simpa [streamStep, hd.op, hlt] using decBlockStep_enabled hr hd hlt
    · simp [streamStep, hd.op, heq, decFinishStep]

theorem unitTurn_enabled {s : State} (h : Invariant s) (hb : s.busy = true) : ∃ t, unitTurn s = .next t := by
  have hr := h.running hb
  simpa [unitTurn, hr.notHalted, hb] using streamStep_enabled hr

/-- A step of a running command ends it or consumes source bytes (R133, R137). -/
theorem streamStep_rpos_lt {s t : State} (h : streamStep s = .next t) (hb : t.busy = true) : s.rpos < t.rpos := by
  rcases streamStep_cases h with ⟨-, hlt, h⟩ | ⟨-, -, h⟩ | ⟨-, -, h⟩ | ⟨-, -, h⟩
  · obtain ⟨-, -, rfl⟩ := encBlockStep_cases h
    simp only [advance_rpos, store_rpos, State.encWindow]
    omega
  · obtain ⟨-, rfl⟩ := encFinishStep_cases h
    simp at hb
  · rcases decBlockStep_cases h with ⟨-, rfl⟩ | ⟨-, -, -, rfl⟩
    · simp at hb
    · rcases decGroup_cases s with e | ⟨bs, n, -, -, e⟩
      · simp [e] at hb
      · simp [e]
  · cases h
    simp at hb

/-- WAIT by a unit with BUSY = 1 is a read of STATUS and the unit's turn, and WAIT stays (R78, log entry 8). -/
theorem step_wait_busy {s : State} {rest : List HostAction} (hb : s.busy = true) (hx : s.inbox = .wait :: rest) :
    step s = unitTurn (s.hostRead 6) := by
  simp [step, takeTurn, hx, hb]

/-- Bit 0 of STATUS is BUSY (R18). -/
theorem readReg_status_mod_two (s : State) : s.readReg 6 % 2 = s.busy.toNat := by
  have hle : s.busy.toNat ≤ 1 := Bool.toNat_le s.busy
  have hword : s.readReg 6 = _ := statusWord_toNat s
  omega

/-- Settles O48, from the enabled step of a running command and its independence of the host actions to come. -/
theorem waitPollsUntilNotBusy : Obligations.WaitPollsUntilNotBusy := by
  unfold Obligations.WaitPollsUntilNotBusy
  intro s rest hinv hx
  refine ⟨fun hb => ?_, fun hb => ⟨_, step_wait_idle hb hx, ?_, ?_⟩⟩
  · rw [step_wait_busy hb hx]
    constructor
    · obtain ⟨t, ht⟩ := unitTurn_enabled (hinv.hostRead 6) hb
      obtain ⟨-, -, -, -, -, -, -, hin, hrd, -⟩ := unitTurn_keeps ht
      obtain ⟨-, ⟨-, hstep⟩ | ⟨hidle, -⟩⟩ := unitTurn_cases ht
      · refine ⟨t, ht, hin.trans hx, ?_, streamStep_rpos_lt (s := s.hostRead 6) hstep⟩
        rw [hrd, hostRead_rdata, readReg_status_mod_two, hb]
        rfl
      · simp [hb] at hidle
    · intro u hu
      have hself : s.hostRead 6 = { s.hostRead 6 with inbox := .wait :: rest } := by rw [← hx]; rfl
      rw [step_of_inbox_nil rfl] at hu
      rw [hself]
      exact (unitTurn_inbox { s.hostRead 6 with inbox := [] } _).trans (congrArg (withInbox _) hu)
  · simp [State.hostRead, hb]
  · exact (readReg_status_mod_two _).trans (congrArg Bool.toNat hb)

end Sys2Proof.Machine

/-! The statements about the block encoder (40_block_encoder.md): the shape of the blocks enc24 makes, and the command
ENCB. -/

namespace Sys2Proof.Machine

/-! ### The characters of an encoded block (R90, R91) -/

theorem enc24_char2 (d : Group) (n : Nat) :
    (enc24 d n).extractLsb' 8 8 = if 2 ≤ n then alpha ((d &&& groupMask n).extractLsb' 6 6) else padChar :=
  block_char2 _ _ _ _

theorem enc24_char3 (d : Group) (n : Nat) :
    (enc24 d n).extractLsb' 0 8 = if n = 3 then alpha ((d &&& groupMask n).extractLsb' 0 6) else padChar :=
  block_char3 _ _ _ _

/-- The third character is the pad exactly when the group has fewer than two bytes. -/
theorem enc24_char2_eq_pad_iff (d : Group) (n : Nat) : (enc24 d n).extractLsb' 8 8 = 0x3D#8 ↔ n < 2 := by
  rw [enc24_char2]
  split
  case isTrue h => exact iff_of_false (alpha_ne_pad _) (Nat.not_lt.2 h)
  case isFalse h => exact iff_of_true rfl (Nat.lt_of_not_le h)

/-- The fourth character is the pad exactly when the group is not a full one. -/
theorem enc24_char3_eq_pad_iff (d : Group) (n : Nat) : (enc24 d n).extractLsb' 0 8 = 0x3D#8 ↔ n ≠ 3 := by
  rw [enc24_char3]
  split
  case isTrue h => exact iff_of_false (alpha_ne_pad _) (not_not_intro h)
  case isFalse h => exact iff_of_true rfl h

/-- Bytes the mask clears have no effect (R91 (c)). -/
theorem enc24_and_groupMask (d : Group) (n : Nat) : enc24 (d &&& groupMask n) n = enc24 d n := by
  simp only [enc24, BitVec.and_assoc, BitVec.and_self]

theorem append_zero_mem_multiples : ∀ x : BitVec 2, x ++ 0#4 ∈ [0#6, 16#6, 32#6, 48#6] := by decide

theorem append_zero_toNat_mod_four : ∀ x : BitVec 4, (x ++ 0#2).toNat % 4 = 0 := by decide

/-- A group is its four sextets (R63, R72). -/
theorem joinSextets_eta (d : Group) :
    joinSextets (d.extractLsb' 18 6) (d.extractLsb' 12 6) (d.extractLsb' 6 6) (d.extractLsb' 0 6) = d := by
  ext i hi; simp [joinSextets]; grind

theorem rawGroup_groupBytes (d : Group) : rawGroup (groupBytes d) = d := group_eta d

/-- The block of a full group decodes to the group's bytes. -/
theorem dec32_enc24_three (d : Group) : dec32 (enc24 d 3) = some (groupBytes d, 3) := by
  simp only [enc24, and_groupMask_three]
  refine (dec32_no_pad (rev_alpha _) (rev_alpha _) (rev_alpha _) (rev_alpha _)).trans ?_
  rw [← groupBytes_joinSextets, joinSextets_eta]

theorem enc24_three_injective {d d' : Group} (h : enc24 d 3 = enc24 d' 3) : d = d' := by
  have hdec : some (groupBytes d, 3) = some (groupBytes d', 3) := by
    rw [← dec32_enc24_three, ← dec32_enc24_three, h]
  have hbytes : groupBytes d = groupBytes d' := congrArg Prod.fst (Option.some.inj hdec)
  rw [← rawGroup_groupBytes d, hbytes, rawGroup_groupBytes]

/-- Settles O11, from the characters of the block; a full block is told from another by decoding it. -/
theorem encodedBlockShape : Obligations.EncodedBlockShape := by
  unfold Obligations.EncodedBlockShape
  refine ⟨fun d n hn => ?_, fun d => ?_, fun d => ?_, fun _ _ => enc24_three_injective⟩
  · rw [enc24_char2_eq_pad_iff, enc24_char3_eq_pad_iff]
    exact ⟨by omega, by omega, (enc24_and_groupMask d n).symm⟩
  · rw [← group_eta d, enc24_one, block_char1]
    exact ⟨_, append_zero_mem_multiples _, rfl⟩
  · rw [← group_eta d, enc24_two, block_char2]
    exact ⟨_, append_zero_toNat_mod_four _, rfl⟩

/-! ### The word of a command (R73, R74) -/

/-- Only OP and LENV of a command word select the command. -/
theorem decodeByte_ctrlWord (w : Byte) : decodeByte (ctrlWord (ctrlOp w) (ctrlLenv w)) = decodeByte w := by
  simp only [decodeByte, ctrlOp_ctrlWord, ctrlLenv_ctrlWord]

theorem opcode_decodeByte (w : Byte) : (decodeByte w).opcode = ctrlOp w := by
  have h : ∀ op l, (decodeByte (ctrlWord op l)).opcode = op := by decide
  rw [← decodeByte_ctrlWord, h]

theorem lenv_decodeByte (w : Byte) : (decodeByte w).lenv = ctrlLenv w := by
  have h : ∀ op l, (decodeByte (ctrlWord op l)).lenv = l := by decide
  rw [← decodeByte_ctrlWord, h]

/-- The words of a command are those with its OP and its LENV. -/
theorem decode_eq_iff (w : Byte) (i : Instr) :
    decode [w] = .ok (i, []) ↔ w.extractLsb' 0 2 = i.opcode ∧ w.getLsbD 2 = i.lenv := by
  constructor
  · intro h
    have hi : decodeByte w = i := by simpa [decode] using h
    exact hi ▸ ⟨(opcode_decodeByte w).symm, (lenv_decodeByte w).symm⟩
  · rintro ⟨hop, hlenv⟩
    have hi : decodeByte w = i :=
      calc decodeByte w = decodeByte (ctrlWord (ctrlOp w) (ctrlLenv w)) := (decodeByte_ctrlWord w).symm
        _ = decodeByte (encodeByte i) := by rw [encodeByte, ← hop, ← hlenv]; rfl
        _ = i := decodeByte_encodeByte i
    rw [decode, hi]

/-! ### The issue of a command with checks (R31, R166) -/

/-- A violation raised in the latched state is a violation at issue (R167). -/
theorem violatedAtIssue_raise {s : State} (i : Instr) (k : Kind) (hi : Idle s) :
    ViolatedAtIssue s ((s.latchFor i).raise k) i k := by
  simp [ViolatedAtIssue, State.raise, State.latchFor, State.latch, hi.2]

/-- The issue of a command whose checks fail raises the violation of the first that does. -/
theorem issueCommand_violated {s : State} {i : Instr} {checks : State → List (Bool × Kind)} {k : Kind}
    (go : State → State) (hi : Idle s) (hm : Meaningful s (readsLen i) (srcSize s i))
    (hf : firstFailing (checks (s.latchFor i)) = some k) :
    ∃ t, issueCommand i.opcode i.lenv (readsLen i) (srcSize s i) (fun u => u.checked (checks u) go) s = .next t ∧
      ViolatedAtIssue s t i k := by
  refine ⟨(s.latchFor i).raise k, ?_, violatedAtIssue_raise i k hi⟩
  rw [issueCommand_runs _ _ _ hi hm]
  exact congrArg _ (checked_fail go hf)

/-- The issue of a command whose checks pass performs its effect. -/
theorem issueCommand_performed {s : State} {i : Instr} {checks : State → List (Bool × Kind)} (go : State → State)
    (hi : Idle s) (hm : Meaningful s (readsLen i) (srcSize s i))
    (hf : firstFailing (checks (s.latchFor i)) = none) :
    issueCommand i.opcode i.lenv (readsLen i) (srcSize s i) (fun u => u.checked (checks u) go) s =
      .next (go (s.latchFor i)) := by
  rw [issueCommand_runs _ _ _ hi hm]
  exact congrArg _ (checked_pass go hf)

/-! ### ENCB (R92) -/

/-- The four characters ENCB makes of the bytes at SRC. -/
def State.encbChars (s : State) : List Byte :=
  blockChars (enc24 (rawGroup (Memory.read s.mem s.src.val s.len.val)) s.len.val)

/-- The effect of ENCB on the latched state of an idle unit. -/
theorem encbEffect_latchFor {s : State} (l : Bool) (hi : Idle s) :
    encbEffect (s.latchFor (.encb l)) =
      { s with
        op := 0#2, lenv := l, done := true, mem := Memory.write s.mem s.dst.val s.encbChars
        leases := s.windows s.len.val :: s.leases, issued := s.issued + 1, completed := s.completed + 1 } := by
  obtain ⟨hbusy, -⟩ := hi
  rw [hbusy]
  rfl

/-- The violation ENCB raises where not all its checks pass. -/
theorem encbChecks_violation {s : State} (l : Bool)
    (h : ¬ (s.src.val ≠ 0 ∧ s.dst.val ≠ 0 ∧ 1 ≤ s.len.val ∧ s.len.val ≤ 3 ∧ 4 ≤ s.cap.val)) :
    firstFailing (encbChecks (s.latchFor (.encb l))) =
      some (if s.src.val = 0 then .nullArg else if s.dst.val = 0 then .nullArg
        else if s.len.val = 0 then .degenerate else if 3 < s.len.val then .degenerate else .capacity) := by
  rw [State.latchFor, encbChecks_first]
  split_ifs with hs hd h0 h3 hc
  case neg => exact absurd ⟨hs, hd, by omega, by omega, by omega⟩ h
  all_goals rfl

/-- Settles O15, by whether the checks of ENCB pass. -/
theorem encbWritesOneBlock : Obligations.EncbWritesOneBlock := by
  unfold Obligations.EncbWritesOneBlock
  intro l s hmem hi hm
  rw [exec_encb]
  refine ⟨fun hs hd h1 h3 hcap => ?_, fun hfail => ?_, fun w => decode_eq_iff w (.encb l)⟩
  · have hpass : firstFailing (encbChecks (s.latchFor (.encb l))) = none :=
      (encbChecks_pass _).2 ⟨hs, hd, Nat.one_le_iff_ne_zero.1 h1, h3, hcap⟩
    refine ⟨encbEffect (s.latchFor (.encb l)), issueCommand_performed (i := .encb l) encbEffect hi hm hpass, ?_⟩
    rw [encbEffect_latchFor l hi]
    exact ⟨rfl, holdsAt_write s.mem _ s.encbChars hmem, sameOutside_write s.mem _ 4 s.encbChars hmem le_rfl⟩
  · exact issueCommand_violated (i := .encb l) encbEffect hi hm (encbChecks_violation l hfail)

end Sys2Proof.Machine

/-! The statements about the block decoder (41_block_decoder.md): the two laws that tie dec32 to enc24, and the command
DECB. -/

namespace Sys2Proof.Machine

/-! ### dec32 after enc24 (R112, first law) -/

theorem groupBytes_append (b0 b1 b2 : Byte) : groupBytes (b0 ++ b1 ++ b2) = [b0, b1, b2] := by
  rw [groupBytes, BitVec.extractLsb'_append_eq_right, BitVec.extractLsb'_append_eq_of_le (by decide),
    BitVec.extractLsb'_append_eq_left, BitVec.extractLsb'_append_eq_of_le (by decide),
    BitVec.extractLsb'_append_eq_right]

theorem dec32_enc24_two (b0 b1 b2 : Byte) : dec32 (enc24 (b0 ++ b1 ++ b2) 2) = some ([b0, b1], 2) := by
  rw [enc24_two, dec32_one_pad (rev_alpha _) (rev_alpha _) (rev_alpha _) rev_pad]
  simp only [BitVec.extractLsb'_append_eq_left, BitVec.extractLsb'_append_eq_right,
    BitVec.extractLsb'_append_extractLsb']

theorem dec32_enc24_one (b0 b1 b2 : Byte) : dec32 (enc24 (b0 ++ b1 ++ b2) 1) = some ([b0], 1) := by
  rw [enc24_one, dec32_two_pads (rev_alpha _) (rev_alpha _) rev_pad rev_pad]
  simp only [BitVec.extractLsb'_append_eq_left, BitVec.extractLsb'_append_extractLsb']

/-- Settles O13, count by count. -/
theorem blockDecoderInvertsBlockEncoder : Obligations.BlockDecoderInvertsBlockEncoder := by
  unfold Obligations.BlockDecoderInvertsBlockEncoder
  rintro b0 b1 b2 n (rfl | rfl | rfl)
  · exact dec32_enc24_one b0 b1 b2
  · exact dec32_enc24_two b0 b1 b2
  · rw [dec32_enc24_three, groupBytes_append]
    rfl

/-! ### enc24 after dec32 (R112, second law) -/

theorem rawGroup_three (b0 b1 b2 : Byte) : rawGroup [b0, b1, b2] = b0 ++ b1 ++ b2 := rfl

theorem rawGroup_two (b0 b1 : Byte) : rawGroup [b0, b1] = b0 ++ b1 ++ 0x00#8 := rfl

theorem rawGroup_one (b0 : Byte) : rawGroup [b0] = b0 ++ 0x00#8 ++ 0x00#8 := rfl

/-- The block of the bytes that four sextets decode to. -/
theorem enc24_sextets_three (a b c e : Sextet) :
    enc24 (rawGroup [a ++ b.extractLsb' 4 2, b.extractLsb' 0 4 ++ c.extractLsb' 2 4, c.extractLsb' 0 2 ++ e]) 3 =
      alpha a ++ alpha b ++ alpha c ++ alpha e := by
  rw [rawGroup_three, enc24_three]
  simp only [BitVec.extractLsb'_append_eq_left, BitVec.extractLsb'_append_eq_right,
    BitVec.extractLsb'_append_extractLsb']

/-- The block of the bytes that three sextets and a pad decode to: the discarded bits come back as zeros. -/
theorem enc24_sextets_two (a b c : Sextet) :
    enc24 (rawGroup [a ++ b.extractLsb' 4 2, b.extractLsb' 0 4 ++ c.extractLsb' 2 4]) 2 =
      alpha a ++ alpha b ++ alpha (c.extractLsb' 2 4 ++ 0#2) ++ 0x3D#8 := by
  rw [rawGroup_two, enc24_two]
  simp only [BitVec.extractLsb'_append_eq_left, BitVec.extractLsb'_append_eq_right,
    BitVec.extractLsb'_append_extractLsb']

/-- The block of the byte that two sextets and two pads decode to: the discarded bits come back as zeros. -/
theorem enc24_sextets_one (a b : Sextet) :
    enc24 (rawGroup [a ++ b.extractLsb' 4 2]) 1 =
      alpha a ++ alpha (b.extractLsb' 4 2 ++ 0#4) ++ 0x3D#8 ++ 0x3D#8 := by
  rw [rawGroup_one, enc24_one]
  simp only [BitVec.extractLsb'_append_eq_left, BitVec.extractLsb'_append_eq_right]

theorem alpha_inj {i j : Sextet} : alpha i = alpha j ↔ i = j := by
  refine ⟨fun h => ?_, congrArg alpha⟩
  have hrev : RevEntry.idx i = .idx j := by rw [← rev_alpha i, h, rev_alpha]
  exact RevEntry.idx.inj hrev

/-- Clearing the low bits of a word changes nothing exactly when they are zero. -/
theorem extractLsb'_append_zero_eq_iff {n m : Nat} (x : BitVec (n + m)) :
    x.extractLsb' m n ++ 0#m = x ↔ x.extractLsb' 0 m = 0#m :=
  calc x.extractLsb' m n ++ 0#m = x
    _ ↔ x.extractLsb' m n ++ 0#m = x.extractLsb' m n ++ x.extractLsb' 0 m := by
      rw [BitVec.extractLsb'_append_extractLsb']
    _ ↔ x.extractLsb' 0 m = 0#m := by rw [BitVec.append_right_inj, eq_comm]

/-- A block that decodes to three bytes is four alphabet characters (R71). -/
theorem dec32_three_chars {q : Block} {bs : List Byte} (h : dec32 q = some (bs, 3)) :
    ∃ a b c e, q = alpha a ++ alpha b ++ alpha c ++ alpha e := by
  obtain ⟨a, b, h0, h1, ⟨c, h2, e, h3⟩ | ⟨c, h2, h3⟩ | ⟨h2, h3⟩⟩ := dec32_some_chars h
  · refine ⟨a, b, c, e, ?_⟩
    rw [alpha_of_rev h0, alpha_of_rev h1, alpha_of_rev h2, alpha_of_rev h3, block_eta]
  · rw [← block_eta q, dec32_one_pad h0 h1 h2 h3] at h
    simp at h
  · rw [← block_eta q, dec32_two_pads h0 h1 h2 h3] at h
    simp at h

theorem enc24_of_dec32_three {q : Block} {bs : List Byte} (h : dec32 q = some (bs, 3)) : enc24 (rawGroup bs) 3 = q := by
  obtain ⟨a, b, c, e, rfl⟩ := dec32_three_chars h
  rw [dec32_no_pad (rev_alpha a) (rev_alpha b) (rev_alpha c) (rev_alpha e)] at h
  cases h
  exact enc24_sextets_three a b c e

/-- Settles O14: a full block by its four sextets; a padded one differs only in the sextet whose discarded bits enc24
clears. -/
theorem blockEncoderInvertsBlockDecoder : Obligations.BlockEncoderInvertsBlockDecoder := by
  unfold Obligations.BlockEncoderInvertsBlockDecoder
  refine ⟨fun q bs => enc24_of_dec32_three, fun a b c bs h => ?_, fun a b bs h => ?_⟩
  · rw [dec32_one_pad (rev_alpha a) (rev_alpha b) (rev_alpha c) rev_pad] at h
    cases h
    rw [enc24_sextets_two, BitVec.append_left_inj, BitVec.append_right_inj, alpha_inj]
    exact extractLsb'_append_zero_eq_iff (n := 4) (m := 2) c
  · rw [dec32_two_pads (rev_alpha a) (rev_alpha b) rev_pad rev_pad] at h
    cases h
    rw [enc24_sextets_one, BitVec.append_left_inj, BitVec.append_left_inj, BitVec.append_right_inj, alpha_inj]
    exact extractLsb'_append_zero_eq_iff (n := 2) (m := 4) b

/-! ### DECB (R113) -/

/-- The block at SRC that DECB decodes. -/
def State.decbBlock (s : State) : Block := encBlock (Memory.read s.mem s.src.val 4)

/-- The memory DECB leaves: the bytes `bs` at DST, the rest of the window of three any value (R113, R114). -/
def State.decbMem (s : State) (bs : List Byte) (n : Nat) : List Host.Cell :=
  Memory.havoc (Memory.write s.mem s.dst.val bs) (s.dst.val + n) (3 - n) s.free

/-- The effect of DECB where the block is legal. -/
theorem decbEffect_of_legal {s : State} {bs : List Byte} {n : Nat} (hd : dec32 s.decbBlock = some (bs, n)) :
    decbEffect s = (((s.store s.dst.val bs).havoc (s.dst.val + n) (3 - n)).setRlen n).complete := by
  rw [State.decbBlock] at hd
  rw [decbEffect, hd]

/-- The effect of DECB where the block is malformed. -/
theorem decbEffect_of_malformed {s : State} (hd : dec32 s.decbBlock = none) : decbEffect s = s.raise .malformed := by
  rw [State.decbBlock] at hd
  rw [decbEffect, hd]

/-- The effect of DECB on the latched state of an idle unit, for a legal block. -/
theorem decbEffect_latchFor {s : State} {bs : List Byte} {n : Nat} (l : Bool) (hi : Idle s)
    (hd : dec32 s.decbBlock = some (bs, n)) :
    decbEffect (s.latchFor (.decb l)) =
      { s with
        op := 1#2, lenv := l, done := true, rlen := .holding n, mem := s.decbMem bs n
        leases := s.windows 4 :: s.leases, issued := s.issued + 1, completed := s.completed + 1
        free := s.free + (3 - n) } := by
  obtain ⟨hbusy, -⟩ := hi
  rw [decbEffect_of_legal (s := s.latchFor (.decb l)) hd, hbusy]
  rfl

/-- The violation DECB raises where an argument check fails or the block is malformed. -/
theorem checked_decbChecks_violation {s : State} (l : Bool)
    (h : s.src.val = 0 ∨ s.dst.val = 0 ∨ s.cap.val < 3 ∨ dec32 s.decbBlock = none) :
    (s.latchFor (.decb l)).checked (decbChecks (s.latchFor (.decb l))) decbEffect =
      (s.latchFor (.decb l)).raise
        (if s.src.val = 0 then .nullArg else if s.dst.val = 0 then .nullArg
          else if s.cap.val < 3 then .capacity else .malformed) := by
  have hfirst := decbChecks_first s (Instr.decb l).opcode (Instr.decb l).lenv (s.windows (srcSize s (.decb l)))
  split_ifs at hfirst ⊢ with hs hd hc
  case neg =>
    have hmal : dec32 s.decbBlock = none := by simpa [hs, hd, hc] using h
    exact (checked_pass decbEffect hfirst).trans (decbEffect_of_malformed hmal)
  all_goals exact checked_fail decbEffect hfirst

/-- Settles O16, by whether the argument checks of DECB pass and the block is legal. -/
theorem decbReadsOneBlock : Obligations.DecbReadsOneBlock := by
  unfold Obligations.DecbReadsOneBlock
  intro l s hmem hi hm
  rw [exec_decb]
  refine ⟨fun bs n hs hd hcap hblock => ?_, fun hfail => ?_, fun w => decode_eq_iff w (.decb l)⟩
  · have hpass : firstFailing (decbChecks (s.latchFor (.decb l))) = none := (decbChecks_pass _).2 ⟨hs, hd, hcap⟩
    obtain ⟨hlen, hone, hthree⟩ := dec32_length hblock
    obtain ⟨hholds, hframe⟩ := write_havoc s.mem s.dst.val bs n 3 s.free hmem hlen hthree
    refine ⟨decbEffect (s.latchFor (.decb l)), issueCommand_performed (i := .decb l) decbEffect hi hm hpass, ?_⟩
    rw [decbEffect_latchFor l hi hblock]
    exact ⟨rfl, hone, hthree, hlen, hholds, hframe⟩
  · refine ⟨_, ?_, violatedAtIssue_raise (.decb l) _ hi⟩
    rw [← checked_decbChecks_violation l hfail]
    exact issueCommand_runs _ _ (fun t => t.checked (decbChecks t) decbEffect) hi hm

end Sys2Proof.Machine

/-! The statements about the stream codec (42_stream_codec.md): the texts, the issue and the steps of ENC and DEC, and
their runs from issue to end. -/

namespace Sys2Proof.Machine

/-! ### The shape of a text (R143 to R146) -/

/-- How many pads end the text of `l` bytes (R144). -/
def padCount (l : Nat) : Nat := if l % 3 = 0 then 0 else 3 - l % 3

theorem padCount_add_three (l : Nat) : padCount (l + 3) = padCount l := by simp [padCount]

theorem encText_length (B : List Byte) : (encText B).length = 4 * ((B.length + 2) / 3) := by
  induction B using encText.induct with
  | case1 => rfl
  | case2 a => simp [encText]
  | case3 a b => simp [encText]
  | case4 a b c rest ih =>
    simp only [encText, List.length_append, blockChars_length, ih, List.length_cons]
    omega

/-- A text is alphabet characters, and after them its pads. -/
theorem encText_eq_alpha_append_pads (B : List Byte) :
    ∃ ix : List Sextet, encText B = ix.map alpha ++ List.replicate (padCount B.length) 0x3D#8 := by
  induction B using encText.induct with
  | case1 => exact ⟨[], rfl⟩
  | case2 a =>
    rw [encText, rawGroup_one, enc24_one, blockChars_append]
    exact ⟨[_, _], rfl⟩
  | case3 a b =>
    rw [encText, rawGroup_two, enc24_two, blockChars_append]
    exact ⟨[_, _, _], rfl⟩
  | case4 a b c rest ih =>
    obtain ⟨ix, h⟩ := ih
    rw [encText, rawGroup_three, enc24_three, blockChars_append, h, ← padCount_add_three]
    exact ⟨_ :: _ :: _ :: _ :: ix, rfl⟩

/-- Settles O27, from the pads at the end of a text and the alphabet characters before them. -/
theorem textLengthAndPadding : Obligations.TextLengthAndPadding := by
  unfold Obligations.TextLengthAndPadding
  refine fun B => ⟨encText_length B, fun k hk => ?_⟩
  obtain ⟨ix, h⟩ := encText_eq_alpha_append_pads B
  change (encText B)[k] = 0x3D#8 ↔ (encText B).length ≤ k + padCount B.length
  simp only [h, List.getElem_append, List.length_append, List.length_map, List.length_replicate]
  split
  · rename_i hfront
    rw [List.getElem_map]
    exact iff_of_false (alpha_ne_pad _) (by omega)
  · rw [List.getElem_replicate]
    exact iff_of_true rfl (by omega)

/-- Settles O28: the null character is no alphabet character, since REV has no index for it. -/
theorem textHasNoOtherCharacter : Obligations.TextHasNoOtherCharacter := by
  unfold Obligations.TextHasNoOtherCharacter
  intro B c hc
  obtain ⟨ix, h⟩ := encText_eq_alpha_append_pads B
  rw [h, List.mem_append, List.mem_map] at hc
  rcases hc with ⟨i, -, rfl⟩ | hc
  · refine ⟨.inl ⟨i, rfl⟩, fun hnull => ?_⟩
    have hrev := rev_alpha i
    rw [hnull] at hrev
    cases hrev
  · obtain rfl := List.eq_of_mem_replicate hc
    exact ⟨.inr rfl, by decide⟩

/-! ### The issue of ENC and DEC (R131, R132, R136) -/

/-- The latched state of an idle unit once a stream command has started. -/
theorem startStream_latchFor (s : State) (i : Instr) :
    (s.latchFor i).startStream = { s with
      op := i.opcode, lenv := i.lenv, done := false, busy := true, rpos := 0, wpos := 0
      leases := s.windows (srcSize s i) :: s.leases, issued := s.issued + 1 } := rfl

/-- The violation ENC raises at issue where not all its checks pass. -/
theorem encChecks_violation {s : State} (l : Bool)
    (h : ¬ (s.src.val ≠ 0 ∧ s.dst.val ≠ 0 ∧ l = true ∧ 4 * ((s.len.val + 2) / 3) + 1 ≤ s.cap.val)) :
    firstFailing (encChecks (s.latchFor (.enc l))) =
      some (if s.src.val = 0 then .nullArg else if s.dst.val = 0 then .nullArg
        else if l = false then .nullArg else .capacity) := by
  rw [State.latchFor, encChecks_first, Instr.lenv]
  split_ifs with hs hd hl hc
  case neg => exact absurd ⟨hs, hd, Bool.eq_true_of_not_eq_false hl, Nat.le_of_not_lt hc⟩ h
  all_goals rfl

/-- The violation DEC raises at issue where not all its checks pass. -/
theorem decChecks_violation {s : State} (l : Bool)
    (h : ¬ (s.src.val ≠ 0 ∧ s.dst.val ≠ 0 ∧ l = true ∧ s.len.val % 4 = 0)) :
    firstFailing (decChecks (s.latchFor (.dec l))) =
      some (if s.src.val = 0 then .nullArg else if s.dst.val = 0 then .nullArg
        else if l = false then .nullArg else .malformed) := by
  rw [State.latchFor, decChecks_first, Instr.lenv]
  split_ifs with hs hd hl hc
  case neg => exact absurd ⟨hs, hd, Bool.eq_true_of_not_eq_false hl, not_not.1 hc⟩ h
  all_goals rfl

/-- ENC by an idle unit, where its checks pass, starts the stream (R132). -/
theorem exec_enc_starts {s : State} (hi : Idle s) (hm : Meaningful s true s.len.val) (hs : s.src.val ≠ 0)
    (hd : s.dst.val ≠ 0) (hcap : reqEnc s.len.val ≤ s.cap.val) :
    exec (.enc true) s = .next (s.latchFor (.enc true)).startStream :=
  issueCommand_performed (i := .enc true) State.startStream hi hm ((encChecks_pass _).2 ⟨hs, hd, rfl, hcap⟩)

/-- DEC by an idle unit, where its checks pass, starts the stream (R136). -/
theorem exec_dec_starts {s : State} (hi : Idle s) (hm : Meaningful s true s.len.val) (hs : s.src.val ≠ 0)
    (hd : s.dst.val ≠ 0) (hmod : s.len.val % 4 = 0) :
    exec (.dec true) s = .next (s.latchFor (.dec true)).startStream :=
  issueCommand_performed (i := .dec true) State.startStream hi hm ((decChecks_pass _).2 ⟨hs, hd, rfl, hmod⟩)

/-- Settles O18, by whether the checks of ENC pass. -/
theorem encIssueStartsTheStream : Obligations.EncIssueStartsTheStream := by
  unfold Obligations.EncIssueStartsTheStream
  intro l s hi hm
  refine ⟨fun hs hd hl hcap => ?_, fun hfail => ?_, fun w => decode_eq_iff w (.enc l)⟩
  · subst hl
    exact ⟨_, exec_enc_starts hi hm hs hd hcap, startStream_latchFor s (.enc true)⟩
  · exact issueCommand_violated (i := .enc l) State.startStream hi hm (encChecks_violation l hfail)

/-- Settles O22, by whether the checks of DEC pass. -/
theorem decIssueStartsTheStream : Obligations.DecIssueStartsTheStream := by
  unfold Obligations.DecIssueStartsTheStream
  intro l s hi hm
  refine ⟨fun hs hd hl hmod => ?_, fun hfail => ?_, fun w => decode_eq_iff w (.dec l)⟩
  · subst hl
    exact ⟨_, exec_dec_starts hi hm hs hd hmod, startStream_latchFor s (.dec true)⟩
  · exact issueCommand_violated (i := .dec l) State.startStream hi hm (decChecks_violation l hfail)

/-- Settles O17, from the ceiling of a third and the check of the capacity at issue. -/
theorem requiredCapacityOfEncode : Obligations.RequiredCapacityOfEncode := by
  unfold Obligations.RequiredCapacityOfEncode
  refine ⟨fun l => ⟨rfl, ?_, fun k hk => ?_⟩, rfl,
    fun s h hi hm hs hd => ⟨fun hcap => ?_, fun hcap => ?_, fun hreq => ?_⟩⟩
  · rw [encBlocks]; omega
  · rw [encBlocks]; omega
  · exact ⟨_, exec_enc_starts hi hm hs hd hcap, rfl, rfl⟩
  · have hfail := encChecks_violation (s := s) true fun ⟨_, _, _, hle⟩ => Nat.not_le.2 hcap hle
    simp only [hs, hd, if_false, Bool.true_eq_false] at hfail
    exact issueCommand_violated (i := .enc true) State.startStream hi hm hfail
  · exact Nat.lt_of_le_of_lt (Nat.le_sub_one_of_lt h.capWidth) hreq

/-! ### The step of a running command (R130) -/

theorem step_of_running {s : State} (h : Invariant s) (hx : s.inbox = []) (hb : s.busy = true) :
    step s = streamStep s :=
  step_of_busy hx hb (h.running hb).notHalted

/-- A violation in a step of a running command (R167). -/
theorem violatedInStep_raise {s : State} (k : Kind) (hh : s.halt = false) : ViolatedInStep s (s.raise k) k := by
  simp [ViolatedInStep, State.raise, hh]

/-! ### The steps of ENC (R133, R134) -/

/-- The characters the next ENC block step writes. -/
def State.encWindowChars (s : State) : List Byte :=
  blockChars (enc24 (rawGroup (Memory.read s.mem (s.src.val + s.rpos) s.encWindow)) s.encWindow)

/-- The state an ENC block step answers. -/
def State.afterEncBlock (s : State) : State :=
  (s.store (s.dst.val + s.wpos) s.encWindowChars).advance s.encWindow 4

/-- The invariant leaves room for the characters of the next window and for the terminator after them. -/
theorem encBlock_room {s : State} (he : EncRunning s) (hlt : s.rpos < s.len.val) : s.wpos + 4 < s.cap.val := by
  obtain ⟨-, hcap, -, hbound, hw⟩ := he
  omega

theorem step_encBlock {s : State} (h : Invariant s) (hx : s.inbox = []) (hb : s.busy = true) (ho : s.op = 2#2)
    (hlt : s.rpos < s.len.val) : step s = .next s.afterEncBlock := by
  have hr := h.running hb
  obtain ⟨t, ht⟩ := encBlockStep_enabled hr (encRunning_of_op hr ho) hlt
  obtain ⟨-, -, rfl⟩ := encBlockStep_cases ht
  rw [step_of_running h hx hb, streamStep, if_pos ⟨ho, hlt⟩]
  exact ht

theorem step_encFinish {s : State} (h : Invariant s) (hx : s.inbox = []) (hb : s.busy = true) (ho : s.op = 2#2)
    (heq : s.rpos = s.len.val) :
    step s = .next ((s.store (s.dst.val + s.wpos) [terminator]).setRlen s.wpos).complete := by
  have hr := h.running hb
  obtain ⟨t, ht⟩ := encFinishStep_enabled hr (encRunning_of_op hr ho) heq
  obtain ⟨-, rfl⟩ := encFinishStep_cases ht
  rw [step_of_running h hx hb]
  simpa [streamStep, ho, heq] using ht

theorem afterEncBlock_holds {s : State} (hm : Memory.wf s.mem = true) :
    HoldsAt s.afterEncBlock.mem (s.dst.val + s.wpos) s.encWindowChars := holdsAt_write s.mem _ _ hm

theorem afterEncBlock_frame {s : State} (hm : Memory.wf s.mem = true) :
    SameOutside s.mem s.afterEncBlock.mem (s.dst.val + s.wpos) 4 :=
  sameOutside_write s.mem _ 4 s.encWindowChars hm le_rfl

/-- Settles O19: the invariant leaves room for the characters, and its windows lie in the memory. -/
theorem encBlockStepWritesFourCharacters : Obligations.EncBlockStepWritesFourCharacters := by
  unfold Obligations.EncBlockStepWritesFourCharacters
  intro s h hx hb ho hlt
  exact ⟨by omega, encBlock_room (encRunning_of_op (h.running hb) ho) hlt, s.afterEncBlock,
    step_encBlock h hx hb ho hlt, rfl, afterEncBlock_holds h.memWf, afterEncBlock_frame h.memWf⟩

/-- Settles O20: the capacity checked at issue leaves room for the terminator. -/
theorem encFinishStepTerminatesTheText : Obligations.EncFinishStepTerminatesTheText := by
  unfold Obligations.EncFinishStepTerminatesTheText
  intro s h hx hb ho heq
  exact ⟨_, step_encFinish h hx hb ho heq, rfl, readByte_writeByte_same s.mem _ _ h.memWf,
    sameOutside_write s.mem _ 1 [terminator] h.memWf le_rfl⟩

/-! ### The steps of DEC (R137, R138) -/

/-- The block the next DEC block step reads. -/
def State.decBlock (s : State) : Block := encBlock (Memory.read s.mem (s.src.val + s.rpos) 4)

/-- The state a DEC block step answers that stores the `n` bytes `bs`. -/
def State.afterDecBlock (s : State) (bs : List Byte) (n : Nat) : State :=
  ((s.store (s.dst.val + s.wpos) bs).havoc (s.dst.val + s.wpos + n) (3 - n)).advance 4 n

theorem decGroup_of_malformed {s : State} (hd : dec32 s.decBlock = none) : decGroup s = s.raise .malformed := by
  rw [State.decBlock] at hd
  rw [decGroup, hd]

/-- A legal block is raised when it is padded and not the last, and stored otherwise. -/
theorem decGroup_of_legal {s : State} {bs : List Byte} {n : Nat} (hd : dec32 s.decBlock = some (bs, n)) :
    decGroup s = if n < 3 ∧ s.rpos + 4 < s.len.val then s.raise .malformed else s.afterDecBlock bs n := by
  rw [State.decBlock] at hd
  rw [decGroup, hd]
  rfl

theorem step_decBlock {s : State} (h : Invariant s) (hx : s.inbox = []) (hb : s.busy = true) (ho : s.op = 3#2)
    (hlt : s.rpos < s.len.val) :
    step s = .next (if s.cap.val - s.wpos < 3 then s.raise .capacity else decGroup s) := by
  have hr := h.running hb
  obtain ⟨t, ht⟩ := decBlockStep_enabled hr (decRunning_of_op hr ho) hlt
  have hstep : step s = .next t := by
    rw [step_of_running h hx hb]
    simpa [streamStep, ho, hlt] using ht
  rw [hstep]
  rcases decBlockStep_cases ht with ⟨hc, rfl⟩ | ⟨hc, -, -, rfl⟩
  · rw [if_pos hc]
  · rw [if_neg (Nat.not_lt.2 hc)]

theorem step_decFinish {s : State} (h : Invariant s) (hx : s.inbox = []) (hb : s.busy = true) (ho : s.op = 3#2)
    (heq : s.rpos = s.len.val) : step s = .next (s.setRlen s.wpos).complete := by
  rw [step_of_running h hx hb]
  simp [streamStep, ho, heq, decFinishStep]

theorem afterDecBlock_holds {s : State} {bs : List Byte} {n : Nat} (hm : Memory.wf s.mem = true)
    (hd : dec32 s.decBlock = some (bs, n)) : HoldsAt (s.afterDecBlock bs n).mem (s.dst.val + s.wpos) bs := by
  obtain ⟨hlen, -, hn⟩ := dec32_length hd
  exact (write_havoc s.mem _ bs n 3 s.free hm hlen hn).1

theorem afterDecBlock_frame {s : State} {bs : List Byte} {n : Nat} (hm : Memory.wf s.mem = true)
    (hd : dec32 s.decBlock = some (bs, n)) :
    SameOutside s.mem (s.afterDecBlock bs n).mem (s.dst.val + s.wpos) 3 := by
  obtain ⟨hlen, -, hn⟩ := dec32_length hd
  exact (write_havoc s.mem _ bs n 3 s.free hm hlen hn).2

/-- Settles O23, guard by guard. -/
theorem decBlockStepGuardsAndWrites : Obligations.DecBlockStepGuardsAndWrites := by
  unfold Obligations.DecBlockStepGuardsAndWrites
  intro s h hx hb ho hlt
  have hh := (h.running hb).notHalted
  refine ⟨_, step_decBlock h hx hb ho hlt, ?_⟩
  split
  case isTrue => exact violatedInStep_raise .capacity hh
  case isFalse =>
    rw [← State.decBlock]
    split
    case h_1 hd =>
      rw [decGroup_of_malformed hd]
      exact violatedInStep_raise .malformed hh
    case h_2 bs n hd =>
      rw [decGroup_of_legal hd]
      split
      case isTrue => exact violatedInStep_raise .malformed hh
      case isFalse =>
        obtain ⟨hlen, -⟩ := dec32_length hd
        exact ⟨rfl, hlen, afterDecBlock_holds h.memWf hd, afterDecBlock_frame h.memWf hd⟩

/-- Settles O24, from the enabled step. -/
theorem decFinishStepReportsTheLength : Obligations.DecFinishStepReportsTheLength := by
  unfold Obligations.DecFinishStepReportsTheLength
  exact fun s h hx hb ho heq => step_decFinish h hx hb ho heq

/-! ### The unit's own turn (R130, R181) -/

theorem step_of_idle {s : State} (hi : Idle s) (hx : s.inbox = []) : step s = .next s := by
  obtain ⟨hb, hh⟩ := hi
  simp [step_of_inbox_nil hx, unitTurn, hb, hh]

/-- Settles O52, from the enabled step of a running command and the unit's independence of the host actions to come. -/
theorem unitStepAlwaysEnabled : Obligations.UnitStepAlwaysEnabled := by
  unfold Obligations.UnitStepAlwaysEnabled
  refine ⟨fun s h hx hh => ?_, fun s => step_of_idle, fun s rest hx => ⟨fun hh t ht => ?_, fun hh => ?_⟩⟩
  · by_cases hb : s.busy = true
    · rw [step_of_inbox_nil hx]
      exact unitTurn_enabled h hb
    · exact ⟨s, step_of_idle ⟨Bool.eq_false_of_not_eq_true hb, hh⟩ hx⟩
  · rw [step_of_inbox_nil rfl] at ht
    have hpass : step s = unitTurn { s with inbox := rest } := by simp [step, takeTurn, hx, hh]
    rw [hpass]
    exact (unitTurn_inbox { s with inbox := [] } rest).trans (congrArg (withInbox rest) ht)
  · simp [step, takeTurn, hx, hh]

/-! ### The run of ENC (R135) -/

/-- The source bytes of a running command stay as they are while only its destination window changes (R58 (c)). -/
theorem read_source_of_sameOutside {s : State} {m : List Host.Cell} {a n w k : Nat} (hr : Running s)
    (hf : SameOutside s.mem m (s.dst.val + w) k) (hroom : w + k ≤ s.cap.val)
    (hn : a + n ≤ s.len.val) : Memory.read m (s.src.val + a) n = Memory.read s.mem (s.src.val + a) n :=
  read_congr _ _ _ _ fun x hlow hhigh => hf x fun hdst => hr.apart x ⟨by omega, by omega⟩

/-- The source bytes a running command has still to consume. -/
def State.bytesLeft (s : State) : List Byte := Memory.read s.mem (s.src.val + s.rpos) (s.len.val - s.rpos)

/-- What the run of ENC from `s` with `w` windows left has done in `u`, where it ends (R133, R134). -/
structure EncEnd (s u : State) (w : Nat) : Prop where
  state : u = { s with
    busy := false, done := true, rlen := .holding (s.wpos + 4 * w), rpos := s.len.val, wpos := s.wpos + 4 * w
    mem := u.mem, completed := s.completed + 1 }
  text : HoldsAt u.mem (s.dst.val + s.wpos) (encText s.bytesLeft ++ [0x00#8])
  frame : SameOutside s.mem u.mem (s.dst.val + s.wpos) (4 * w + 1)

/-- With no window left the finish step is the run. -/
theorem encEnd_finish {s : State} (hm : Memory.wf s.mem = true) (heq : s.rpos = s.len.val) :
    EncEnd s ((s.store (s.dst.val + s.wpos) [terminator]).setRlen s.wpos).complete 0 where
  state := by rw [← heq]; rfl
  text := by
    rw [State.bytesLeft, heq, Nat.sub_self]
    exact holdsAt_write s.mem _ [terminator] hm
  frame := sameOutside_write s.mem _ 1 [terminator] hm le_rfl

/-- The text of the bytes left is the characters of the next window and the text of what is left after it. -/
theorem encText_bytesLeft {s : State} (h : Invariant s) (hb : s.busy = true) (ho : s.op = 2#2)
    (hlt : s.rpos < s.len.val) :
    encText s.bytesLeft = s.encWindowChars ++ encText s.afterEncBlock.bytesLeft := by
  have hr := h.running hb
  have hroom := encBlock_room (encRunning_of_op hr ho) hlt
  have hwin : s.rpos + s.encWindow ≤ s.len.val := by rw [State.encWindow]; omega
  have hleft : s.afterEncBlock.bytesLeft =
      Memory.read s.mem (s.src.val + s.rpos + s.encWindow) (s.len.val - s.rpos - s.encWindow) := by
    rw [Nat.sub_sub, Nat.add_assoc]
    exact read_source_of_sameOutside hr (afterEncBlock_frame h.memWf) hroom.le (Nat.add_sub_of_le hwin).le
  rw [hleft]
  exact encText_chunk s.mem _ _ (by omega)

/-- A block step before a run of ENC makes it a run with one window more. -/
theorem EncEnd.of_block {s u : State} {w : Nat} (h : Invariant s) (hb : s.busy = true) (ho : s.op = 2#2)
    (hlt : s.rpos < s.len.val) (hend : EncEnd s.afterEncBlock u w) : EncEnd s u (w + 1) := by
  obtain ⟨hstate, htext, hframe⟩ := hend
  change HoldsAt u.mem (s.dst.val + (s.wpos + 4)) _ at htext
  change SameOutside _ u.mem (s.dst.val + (s.wpos + 4)) _ at hframe
  refine ⟨?_, ?_, ?_⟩
  · have hwpos : s.afterEncBlock.wpos + 4 * w = s.wpos + 4 * (w + 1) := by
      rw [State.afterEncBlock, advance_wpos, store_wpos]
      omega
    rw [hwpos] at hstate
    exact hstate
  · rw [encText_bytesLeft h hb ho hlt, List.append_assoc, holdsAt_append]
    exact ⟨(afterEncBlock_holds h.memWf).of_sameOutside hframe (Nat.add_assoc _ _ _).le, htext⟩
  · exact ((afterEncBlock_frame h.memWf).mono le_rfl (by omega)).trans (hframe.mono (by omega) (by omega))

/-- ENC from any state of its run to its end, with no host action pending. -/
theorem enc_run (w : Nat) {s : State} (h : Invariant s) (hx : s.inbox = []) (hb : s.busy = true) (ho : s.op = 2#2)
    (hw : (s.len.val - s.rpos + 2) / 3 = w) :
    ∃ u, Host.Core.run Sys2Proof.core (w + 1) s = .next u ∧ EncEnd s u w := by
  have hle := (encRunning_of_op (h.running hb) ho).rposLe
  induction w generalizing s with
  | zero =>
    have heq : s.rpos = s.len.val := by omega
    exact ⟨_, run_succ 0 s _ (step_encFinish h hx hb ho heq), encEnd_finish h.memWf heq⟩
  | succ w ih =>
    have hlt : s.rpos < s.len.val := by omega
    have hstep := step_encBlock h hx hb ho hlt
    have h' := everyStepKeepsTheInvariant _ _ h hstep
    have hw' : (s.len.val - (s.rpos + s.encWindow) + 2) / 3 = w := by rw [State.encWindow]; omega
    obtain ⟨u, hu, hend⟩ := ih h' hx hb ho hw' (encRunning_of_op (h'.running hb) ho).rposLe
    exact ⟨u, (run_succ (w + 1) s _ hstep).trans hu, hend.of_block h hb ho hlt⟩

/-- Settles O21, from the issue of ENC and its run from there. -/
theorem encRunWritesTheText : Obligations.EncRunWritesTheText := by
  unfold Obligations.EncRunWritesTheText
  intro s h hi hx hm hs hd hcap
  have hissue := exec_enc_starts hi hm hs hd hcap
  obtain ⟨u, hu, hstate, htext, hframe⟩ :=
    enc_run ((s.len.val + 2) / 3) (h.issueResult (exec_issueResult hissue)) hx rfl rfl rfl
  simp only [startStream_wpos, Nat.zero_add] at hstate
  exact ⟨_, u, hissue, hu, hstate, htext, by rw [encText_length, read_length], hframe⟩

/-! ### The run of DEC (R139) -/

/-- What the run of DEC from `s` has done in `u`, where it ends, when its `j` groups left decode to the bytes and the
violation given (R137, R138, R170). -/
def DecEnd (s u : State) (j : Nat) : List Byte × Option Kind → Prop
  | (bs, none) =>
    u = { s with
      busy := false, done := true, rlen := .holding (s.wpos + bs.length), rpos := s.len.val
      wpos := s.wpos + bs.length, mem := u.mem, completed := s.completed + 1, free := u.free } ∧
    HoldsAt u.mem (s.dst.val + s.wpos) bs ∧ SameOutside s.mem u.mem (s.dst.val + s.wpos) (3 * j)
  | (bs, some kind) =>
    ViolatedInStep { s with rpos := u.rpos, wpos := s.wpos + bs.length, mem := u.mem } u kind ∧
    HoldsAt u.mem (s.dst.val + s.wpos) bs ∧ bs.length % 3 = 0 ∧
    SameOutside s.mem u.mem (s.dst.val + s.wpos) bs.length

theorem decEnd_finish {s : State} (heq : s.rpos = s.len.val) :
    DecEnd s (s.setRlen s.wpos).complete 0 ([], none) :=
  ⟨by rw [← heq]; rfl, fun k hk => absurd hk (Nat.not_lt_zero k), .refl _ _ _⟩

theorem decEnd_raise {s : State} (k : Kind) (j : Nat) (hh : s.halt = false) :
    DecEnd s (s.raise k) j ([], some k) :=
  ⟨violatedInStep_raise k hh, fun k hk => absurd hk (Nat.not_lt_zero k), rfl, .refl _ _ _⟩

/-- The bytes of a group stand at the end of the run, and the bytes of the run after them. -/
theorem afterDecBlock_append_holds {s u : State} {bs cs : List Byte} {n k : Nat} (hm : Memory.wf s.mem = true)
    (hd : dec32 s.decBlock = some (bs, n)) (hcs : HoldsAt u.mem (s.dst.val + (s.wpos + n)) cs)
    (hf : SameOutside (s.afterDecBlock bs n).mem u.mem (s.dst.val + (s.wpos + n)) k) :
    HoldsAt u.mem (s.dst.val + s.wpos) (bs ++ cs) := by
  obtain ⟨rfl, -, -⟩ := dec32_length hd
  rw [← Nat.add_assoc] at hcs hf
  exact holdsAt_append.2 ⟨(afterDecBlock_holds hm hd).of_sameOutside hf le_rfl, hcs⟩

/-- A stored group before a run of DEC makes it a run with one group more. Only the last group may yield fewer than
three bytes, and nothing is raised after it. -/
theorem DecEnd.of_block {s u : State} {j n : Nat} {bs : List Byte} {r : List Byte × Option Kind}
    (hm : Memory.wf s.mem = true) (hd : dec32 s.decBlock = some (bs, n)) (hfull : r.2 ≠ none → n = 3)
    (hend : DecEnd (s.afterDecBlock bs n) u j r) : DecEnd s u (j + 1) (bs ++ r.1, r.2) := by
  obtain ⟨hlen, -, hn⟩ := dec32_length hd
  have hblock := afterDecBlock_frame hm hd
  obtain ⟨cs, o⟩ := r
  have hlength : (bs ++ cs).length = n + cs.length := by rw [List.length_append, hlen]
  have hwpos : (s.afterDecBlock bs n).wpos + cs.length = s.wpos + (bs ++ cs).length := by
    rw [hlength, ← Nat.add_assoc]
    rfl
  cases o with
  | none =>
    obtain ⟨hstate, hholds, hframe⟩ := hend
    rw [hwpos] at hstate
    change SameOutside _ u.mem (s.dst.val + (s.wpos + n)) _ at hframe
    exact ⟨hstate, afterDecBlock_append_holds hm hd hholds hframe,
      (hblock.mono le_rfl (by omega)).trans (hframe.mono (by omega) (by omega))⟩
  | some kind =>
    obtain ⟨hstate, hholds, hmod, hframe⟩ := hend
    obtain rfl : n = 3 := hfull (Option.some_ne_none kind)
    rw [hwpos] at hstate
    change SameOutside _ u.mem (s.dst.val + (s.wpos + 3)) _ at hframe
    have hwritten : SameOutside s.mem u.mem (s.dst.val + s.wpos) (bs ++ cs).length :=
      (hblock.mono le_rfl (by omega)).trans (hframe.mono (by omega) (by omega))
    exact ⟨hstate, afterDecBlock_append_holds hm hd hholds hframe,
      hlength ▸ (Nat.add_mod_left 3 _).trans hmod, hwritten⟩

/-- The groups after a stored one decode as they did before it was stored. -/
theorem decGroups_afterDecBlock {s : State} {bs : List Byte} {n j : Nat} (h : Invariant s) (hb : s.busy = true)
    (hroom : 3 ≤ s.cap.val - s.wpos) (hd : dec32 s.decBlock = some (bs, n)) (hj : s.len.val = s.rpos + 4 * (j + 1))
    (hfull : n = 3 ∨ j = 0) :
    decGroups (s.cap.val - (s.wpos + n)) (Memory.read (s.afterDecBlock bs n).mem (s.src.val + (s.rpos + 4)) (4 * j)) =
      decGroups (s.cap.val - s.wpos - 3) (Memory.read s.mem (s.src.val + s.rpos + 4) (4 * j)) := by
  rcases hfull with rfl | rfl
  · rw [Nat.sub_sub, Nat.add_assoc,
      read_source_of_sameOutside (h.running hb) (afterDecBlock_frame h.memWf hd) (by omega) (by omega)]
  · rw [Nat.mul_zero, Memory.read, Memory.read, decGroups_nil, decGroups_nil]

/-- DEC from any state of its run to its end, with no host action pending. -/
theorem dec_run (j : Nat) {s : State} (h : Invariant s) (hx : s.inbox = []) (hb : s.busy = true) (ho : s.op = 3#2)
    (hj : s.len.val = s.rpos + 4 * j) :
    ∃ k u, k ≤ j + 1 ∧ Host.Core.run Sys2Proof.core k s = .next u ∧
      DecEnd s u j (decGroups (s.cap.val - s.wpos) (Memory.read s.mem (s.src.val + s.rpos) (4 * j))) := by
  induction j generalizing s with
  | zero =>
    have heq : s.rpos = s.len.val := hj.symm
    rw [Nat.mul_zero, Memory.read, decGroups_nil]
    exact ⟨1, _, le_rfl, run_succ 0 s _ (step_decFinish h hx hb ho heq), decEnd_finish heq⟩
  | succ j ih =>
    have hlt : s.rpos < s.len.val := by omega
    have hh := (h.running hb).notHalted
    have hstep := step_decBlock h hx hb ho hlt
    have hlast : s.rpos + 4 < s.len.val ↔ j ≠ 0 := by omega
    have hraise (kind : Kind) (hk : step s = .next (s.raise kind)) :
        ∃ k u, k ≤ j + 1 + 1 ∧ Host.Core.run Sys2Proof.core k s = .next u ∧
          DecEnd s u (j + 1) ([], some kind) :=
      ⟨1, _, Nat.le_add_left 1 _, run_succ 0 s _ hk, decEnd_raise kind _ hh⟩
    rw [decGroups_read]
    split_ifs at hstep ⊢ with hroom
    · exact hraise _ hstep
    · rw [← State.decBlock]
      split
      case h_1 hd => exact hraise _ (decGroup_of_malformed hd ▸ hstep)
      case h_2 bs n hd =>
        simp only [decGroup_of_legal hd, hlast] at hstep
        split_ifs at hstep ⊢ with hpad
        · exact hraise _ hstep
        · obtain ⟨-, -, hn⟩ := dec32_length hd
          have hfull : n = 3 ∨ j = 0 := by omega
          have hrest := decGroups_afterDecBlock h hb (Nat.le_of_not_lt hroom) hd hj hfull
          obtain ⟨k, u, hk, hu, hend⟩ := ih (everyStepKeepsTheInvariant _ _ h hstep) hx hb ho (by
            change s.len.val = s.rpos + 4 + 4 * j
            omega)
          refine ⟨k + 1, u, Nat.add_le_add_right hk 1, (run_succ k s _ hstep).trans hu,
            .of_block h.memWf hd (fun hviol => ?_) (hrest ▸ hend)⟩
          refine hfull.resolve_right fun hzero => hviol ?_
          rw [hzero, Nat.mul_zero, Memory.read, decGroups_nil]

/-- Settles O25, from the issue of DEC and its run from there. -/
theorem decRunWritesTheBytes : Obligations.DecRunWritesTheBytes := by
  unfold Obligations.DecRunWritesTheBytes
  intro s h hi hx hm hs hd hmod
  have hissue := exec_dec_starts hi hm hs hd hmod
  have hlen : s.len.val = 4 * (s.len.val / 4) := by omega
  obtain ⟨k, u, hk, hu, hend⟩ :=
    dec_run (s.len.val / 4) (h.issueResult (exec_issueResult hissue)) hx rfl rfl (hlen.trans (Nat.zero_add _).symm)
  rw [← hlen] at hend
  change DecEnd _ u _ (decGroups s.cap.val (Memory.read s.mem s.src.val s.len.val)) at hend
  refine ⟨_, u, k, hissue, hk, hu, ?_⟩
  generalize decGroups s.cap.val (Memory.read s.mem s.src.val s.len.val) = r at hend ⊢
  obtain ⟨bs, o⟩ := r
  cases o with
  | none =>
    obtain ⟨hstate, hholds, hframe⟩ := hend
    simp only [startStream_wpos, Nat.zero_add] at hstate
    exact ⟨hstate, hholds, hframe⟩
  | some kind =>
    obtain ⟨hstate, hholds, hlength, hframe⟩ := hend
    simp only [startStream_wpos, Nat.zero_add] at hstate
    exact ⟨hstate, hholds, hlength, hframe⟩

/-! ### The round trip (R142) -/

/-- A legal block, padded only at the end of the text, gives its bytes and leaves the rest to decode. -/
theorem decGroups_block_legal {room n : Nat} {q : Block} {bs rest : List Byte} (hroom : 3 ≤ room)
    (hd : dec32 q = some (bs, n)) (hn : n = 3 ∨ rest = []) :
    decGroups room (blockChars q ++ rest) =
      (bs ++ (decGroups (room - 3) rest).1, (decGroups (room - 3) rest).2) := by
  have hpad : ¬ (n < 3 ∧ rest ≠ []) := fun ⟨hlt, hne⟩ => hn.elim (Nat.ne_of_lt hlt) hne
  rw [decGroups_block, if_neg (Nat.not_lt.2 hroom), hd]
  exact if_neg hpad

/-- The text of `B` decodes to `B`, with three bytes of capacity a group. -/
theorem decGroups_encText (B : List Byte) {room : Nat} (hroom : 3 * ((B.length + 2) / 3) ≤ room) :
    decGroups room (encText B) = (B, none) := by
  induction B using encText.induct generalizing room with
  | case1 => exact decGroups_nil room
  | case2 a =>
    rw [encText, rawGroup_one, ← List.append_nil (blockChars _),
      decGroups_block_legal (by simpa using hroom) (dec32_enc24_one _ _ _) (.inr rfl), decGroups_nil, List.append_nil]
  | case3 a b =>
    rw [encText, rawGroup_two, ← List.append_nil (blockChars _),
      decGroups_block_legal (by simpa using hroom) (dec32_enc24_two _ _ _) (.inr rfl), decGroups_nil, List.append_nil]
  | case4 a b c rest ih =>
    simp only [List.length_cons] at hroom
    rw [encText, rawGroup_three, decGroups_block_legal (by omega) (dec32_enc24_three _) (.inl rfl), ih (by omega),
      groupBytes_append]
    rfl

/-- Settles O26, from the run of DEC on a text that decodes to `B`. -/
theorem decRestoresTheBytesOfATextOfEnc : Obligations.DecRestoresTheBytesOfATextOfEnc := by
  unfold Obligations.DecRestoresTheBytesOfATextOfEnc
  intro B s h hi hx hm hs hd hlen htext hcap
  obtain ⟨t, u, k, ht, hk, hu, hend⟩ := decRunWritesTheBytes s h hi hx hm hs hd (by omega)
  rw [htext, decGroups_encText B hcap] at hend
  obtain ⟨hstate, hholds, -⟩ := hend
  exact ⟨t, u, k, ht, hk, hu, by rw [hstate], by rw [hstate], by rw [hstate], by rw [hstate], hholds⟩

/-! ### The end of a run (R141) -/

theorem EncEnd.not_busy {s u : State} {w : Nat} (h : EncEnd s u w) : u.busy = false := by
  rw [h.state]

theorem DecEnd.not_busy {s u : State} {j : Nat} {r : List Byte × Option Kind} (h : DecEnd s u j r) :
    u.busy = false := by
  obtain ⟨bs, _ | kind⟩ := r
  · rw [h.1]
  · obtain ⟨hviol, -⟩ := h
    rw [hviol]

/-- Settles O33, from the run of the command that is latched. -/
theorem runningStreamEnds : Obligations.RunningStreamEnds := by
  unfold Obligations.RunningStreamEnds
  intro s h hx hb
  rcases (h.running hb).progress with he | hdec
  · obtain ⟨u, hu, hend⟩ := enc_run _ h hx hb he.op rfl
    exact ⟨_, u, by rw [if_pos he.op], hu, hend.not_busy⟩
  · obtain ⟨hop, hmod, hle, hrmod, -, -, -⟩ := hdec
    obtain ⟨k, u, hk, hu, hend⟩ := dec_run ((s.len.val - s.rpos) / 4) h hx hb hop (by omega)
    exact ⟨k, u, by simpa [hop] using hk, hu, hend.not_busy⟩

/-! ### What the issue of a command depends on (R30, R52, R147) -/

/-- Two idle states that agree on all that the issue of command `i` may look at. -/
structure AgreeAtIssue (i : Instr) (s s' : State) : Prop where
  memWf : Memory.wf s.mem = true
  memWf' : Memory.wf s'.mem = true
  idle : Idle s
  idle' : Idle s'
  cfg : s'.cfg = s.cfg
  src : s'.src = s.src
  len : s'.len = s.len
  dst : s'.dst = s.dst
  cap : s'.cap = s.cap
  bytes : ∀ x, s.src.val ≤ x → x < s.src.val + srcSize s i → Memory.readByte s'.mem x = Memory.readByte s.mem x

/-- What the states `t` and `t'`, left by the issue of command `i` in two states with the destination `dst`, have in
common: all that has a meaning then. -/
structure SameOutcome (i : Instr) (dst : Nat) (t t' : State) : Prop where
  done : t'.done = t.done
  busy : t'.busy = t.busy
  halt : t'.halt = t.halt
  cause : t.done = false → t.busy = false → t'.cause = t.cause
  encb : t.done = true → i.opcode = 0#2 →
    ∀ k < 4, Memory.readByte t'.mem (dst + k) = Memory.readByte t.mem (dst + k)
  decb : t.done = true → i.opcode = 1#2 → t'.rlen = t.rlen ∧
    ∀ k < t.rlen.val, Memory.readByte t'.mem (dst + k) = Memory.readByte t.mem (dst + k)

section
variable {i : Instr} {s s' : State} (h : AgreeAtIssue i s s')
include h

theorem AgreeAtIssue.srcSize_eq : srcSize s' i = srcSize s i := by
  cases i with
  | decb l => rfl
  | encb l => exact congrArg Reg.val h.len
  | enc l => exact congrArg Reg.val h.len
  | dec l => exact congrArg Reg.val h.len

theorem AgreeAtIssue.meaningful (hm : Meaningful s (readsLen i) (srcSize s i)) :
    Meaningful s' (readsLen i) (srcSize s' i) := by
  obtain ⟨held, lenHeld, srcFits, dstFits, apart⟩ := hm
  rw [h.srcSize_eq]
  constructor <;> simpa only [h.cfg, h.src, h.len, h.dst, h.cap]

/-- The source bytes are the same. -/
theorem AgreeAtIssue.read_source :
    Memory.read s'.mem s'.src.val (srcSize s i) = Memory.read s.mem s.src.val (srcSize s i) := by
  rw [h.src]
  exact read_congr _ _ _ _ h.bytes

theorem AgreeAtIssue.sameOutcome_raise (k : Kind) :
    SameOutcome i s.dst.val ((s.latchFor i).raise k) ((s'.latchFor i).raise k) where
  done := rfl
  busy := rfl
  halt := by
    change (s'.halt || decide (s'.cfg.mode = .production)) = (s.halt || decide (s.cfg.mode = .production))
    rw [h.idle'.2, h.idle.2, h.cfg]
  cause := fun _ _ => rfl
  encb := by simp [State.latchFor]
  decb := by simp [State.latchFor]

theorem AgreeAtIssue.sameOutcome_startStream :
    SameOutcome i s.dst.val (s.latchFor i).startStream (s'.latchFor i).startStream where
  done := rfl
  busy := rfl
  halt := h.idle'.2.trans h.idle.2.symm
  cause := by simp
  encb := by simp [State.latchFor]
  decb := by simp [State.latchFor]

/-- An issue with checks: the same check fails, or both perform the effect. -/
theorem AgreeAtIssue.sameOutcome_issue {t : State} {checks : State → List (Bool × Kind)} {go : State → State}
    (hchecks : firstFailing (checks (s'.latchFor i)) = firstFailing (checks (s.latchFor i)))
    (hgo : SameOutcome i s.dst.val (go (s.latchFor i)) (go (s'.latchFor i)))
    (ht : issueCommand i.opcode i.lenv (readsLen i) (srcSize s i) (fun u => u.checked (checks u) go) s =
      .next t) :
    ∃ t', issueCommand i.opcode i.lenv (readsLen i) (srcSize s' i) (fun u => u.checked (checks u) go) s' =
      .next t' ∧ SameOutcome i s.dst.val t t' := by
  rcases issueCommand_cases ht with ⟨hb, -⟩ | ⟨-, hm, rfl⟩
  · obtain ⟨hbusy, hhalt⟩ := h.idle
    simp [hbusy, hhalt] at hb
  · refine ⟨_, issueCommand_runs _ _ _ h.idle' (h.meaningful hm), ?_⟩
    change SameOutcome i _ ((s.latchFor i).checked (checks (s.latchFor i)) go)
      ((s'.latchFor i).checked (checks (s'.latchFor i)) go)
    cases hf : firstFailing (checks (s.latchFor i)) with
    | some k =>
      rw [checked_fail go hf, checked_fail go (hchecks.trans hf)]
      exact h.sameOutcome_raise k
    | none =>
      rw [checked_pass go hf, checked_pass go (hchecks.trans hf)]
      exact hgo

end

/-- The four characters are made of the source bytes alone (R92). -/
theorem AgreeAtIssue.sameOutcome_encb {l : Bool} {s s' : State} (h : AgreeAtIssue (.encb l) s s') :
    SameOutcome (.encb l) s.dst.val (encbEffect (s.latchFor (.encb l))) (encbEffect (s'.latchFor (.encb l))) := by
  have hchars : s'.encbChars = s.encbChars := by
    have hread := h.read_source
    change Memory.read _ _ s.len.val = Memory.read _ _ s.len.val at hread
    rw [State.encbChars, State.encbChars, h.len, hread]
  rw [encbEffect_latchFor l h.idle, encbEffect_latchFor l h.idle', hchars, h.dst]
  have hholds := holdsAt_write s.mem s.dst.val s.encbChars h.memWf
  have hholds' := holdsAt_write s'.mem s.dst.val s.encbChars h.memWf'
  exact ⟨rfl, h.idle'.1.trans h.idle.1.symm, h.idle'.2.trans h.idle.2.symm, by simp,
    fun _ _ k hk => (hholds' k hk).trans (hholds k hk).symm, by simp [Instr.opcode]⟩

theorem decbMem_holds {s : State} {bs : List Byte} {n : Nat} (hm : Memory.wf s.mem = true)
    (hd : dec32 s.decbBlock = some (bs, n)) : HoldsAt (s.decbMem bs n) s.dst.val bs := by
  obtain ⟨hlen, -, hn⟩ := dec32_length hd
  exact (write_havoc s.mem s.dst.val bs n 3 s.free hm hlen hn).1

/-- The decoded bytes and their number are those of the block at SRC (R113). -/
theorem AgreeAtIssue.sameOutcome_decb {l : Bool} {s s' : State} (h : AgreeAtIssue (.decb l) s s') :
    SameOutcome (.decb l) s.dst.val (decbEffect (s.latchFor (.decb l))) (decbEffect (s'.latchFor (.decb l))) := by
  have hblock : s'.decbBlock = s.decbBlock := congrArg encBlock h.read_source
  cases hd : dec32 s.decbBlock with
  | none =>
    have hd' : dec32 s'.decbBlock = none := hblock ▸ hd
    rw [decbEffect_of_malformed (s := s.latchFor _) hd, decbEffect_of_malformed (s := s'.latchFor _) hd']
    exact h.sameOutcome_raise .malformed
  | some r =>
    obtain ⟨bs, n⟩ := r
    obtain ⟨rfl, -⟩ := dec32_length hd
    have hholds := decbMem_holds h.memWf hd
    have hholds' := decbMem_holds h.memWf' (hblock ▸ hd)
    rw [decbEffect_latchFor l h.idle hd, decbEffect_latchFor l h.idle' (hblock ▸ hd)]
    rw [h.dst] at hholds'
    exact ⟨rfl, h.idle'.1.trans h.idle.1.symm, h.idle'.2.trans h.idle.2.symm, by simp, by simp [Instr.opcode],
      fun _ _ => ⟨rfl, fun k hk => (hholds' k hk).trans (hholds k hk).symm⟩⟩

/-- Two agreeing states see the same outcome of a command. -/
theorem AgreeAtIssue.exec_sameOutcome {i : Instr} {s s' t : State} (h : AgreeAtIssue i s s') (ht : exec i s = .next t) :
    ∃ t', exec i s' = .next t' ∧ SameOutcome i s.dst.val t t' := by
  cases i with
  | encb l =>
    refine h.sameOutcome_issue (checks := encbChecks) ?_ h.sameOutcome_encb ht
    rw [State.latchFor, State.latchFor, encbChecks_first, encbChecks_first, h.src, h.len, h.dst, h.cap]
  | decb l =>
    refine h.sameOutcome_issue (checks := decbChecks) ?_ h.sameOutcome_decb ht
    rw [State.latchFor, State.latchFor, decbChecks_first, decbChecks_first, h.src, h.dst, h.cap]
  | enc l =>
    refine h.sameOutcome_issue (checks := encChecks) ?_ h.sameOutcome_startStream ht
    rw [State.latchFor, State.latchFor, encChecks_first, encChecks_first, h.src, h.len, h.dst, h.cap]
  | dec l =>
    refine h.sameOutcome_issue (checks := decChecks) ?_ h.sameOutcome_startStream ht
    rw [State.latchFor, State.latchFor, decChecks_first, decChecks_first, h.src, h.len, h.dst]

/-- Settles O32, command by command. -/
theorem issueDependsOnOperandsAndSourceOnly : Obligations.IssueDependsOnOperandsAndSourceOnly := by
  unfold Obligations.IssueDependsOnOperandsAndSourceOnly
  intro i s s' t hm hm' hi hi' hcfg hsrc hlen hdst hcap hbytes ht
  obtain ⟨t', ht', hsame⟩ :=
    (AgreeAtIssue.mk hm hm' hi hi' hcfg hsrc hlen hdst hcap hbytes : AgreeAtIssue i s s').exec_sameOutcome ht
  exact ⟨t', ht', hsame.done, hsame.busy, hsame.halt, hsame.cause, hsame.encb, hsame.decb⟩

end Sys2Proof.Machine

/-! The statements about exceptions (60_exceptions.md): the entry of a violation, the three outcomes of a command that is
issued, and what invokes the hook. -/

namespace Sys2Proof.Machine

/-! ### The entry of a violation and the halted unit (R161, R167, R168) -/

theorem raise_halt_eq_ite (s : State) (k : Kind) :
    (s.raise k).halt = if s.cfg.mode = .production then true else s.halt := by
  split <;> simp [*]

theorem raise_rlen_lt (s : State) (k : Kind) : (s.raise k).rlen.val < 2 ^ s.cfg.lw :=
  Nat.mod_lt _ (Nat.two_pow_pos _)

/-- Settles O34, from HALT and RLEN after a violation; the other fields are those `State.raise` sets. -/
theorem violationEntry : Obligations.ViolationEntry := by
  unfold Obligations.ViolationEntry
  intro s k
  refine ⟨?_, rfl, raise_rlen_lt s k, rfl⟩
  rw [← raise_halt_eq_ite s k]
  rfl

theorem unitTurn_of_halted {s : State} (hh : s.halt = true) : unitTurn s = .fault .halted := if_pos hh

/-- Settles O36: with no host action left the turn is the unit's own. -/
theorem haltedUnitIsStuck : Obligations.HaltedUnitIsStuck := by
  unfold Obligations.HaltedUnitIsStuck
  intro s hh hx
  rw [step_of_inbox_nil hx, unitTurn_of_halted hh]

/-! ### The outcome of an issued command (R20, R160, R170) -/

/-- An issue with checks by an idle unit raises a violation or performs the command's effect. -/
theorem issueCommand_violates_or_performs {s t : State} {i : Instr} {checks : State → List (Bool × Kind)}
    {go : State → State} (hi : Idle s)
    (h : issueCommand i.opcode i.lenv (readsLen i) (srcSize s i) (fun u => u.checked (checks u) go) s = .next t) :
    (∃ k, ViolatedAtIssue s t i k) ∨ t = go (s.latchFor i) := by
  rcases issueCommand_cases h with ⟨hb, -⟩ | ⟨-, -, rfl⟩
  · obtain ⟨hbusy, hhalt⟩ := hi
    simp [hbusy, hhalt] at hb
  · rcases checked_cases (s.latchFor i) (checks (s.latchFor i)) go with ⟨k, -, e⟩ | ⟨-, e⟩
    · exact e ▸ .inl ⟨k, violatedAtIssue_raise i k hi⟩
    · exact .inr e

/-- The command `i` issued in `s` has completed (R20). -/
def CompletedAtIssue (s t : State) (i : Instr) : Prop :=
  t.done = true ∧ t.busy = false ∧ t.viol = s.viol ∧ t.cause = s.cause ∧ i.opcode.toNat ≤ 1

/-- The command `i` issued in `s` is running (R130). -/
def RunsAfterIssue (s t : State) (i : Instr) : Prop :=
  t.done = false ∧ t.busy = true ∧ t.viol = s.viol ∧ t.cause = s.cause ∧ t.mem = s.mem ∧ 2 ≤ i.opcode.toNat

theorem encb_completed_or_violated {s t : State} {l : Bool} (hi : Idle s) (h : exec (.encb l) s = .next t) :
    CompletedAtIssue s t (.encb l) ∨ ∃ k, ViolatedAtIssue s t (.encb l) k := by
  rcases issueCommand_violates_or_performs (i := .encb l) (checks := encbChecks) hi h with hv | rfl
  · exact .inr hv
  · exact .inl ⟨rfl, rfl, rfl, rfl, Nat.zero_le 1⟩

theorem decb_completed_or_violated {s t : State} {l : Bool} (hi : Idle s) (h : exec (.decb l) s = .next t) :
    CompletedAtIssue s t (.decb l) ∨ ∃ k, ViolatedAtIssue s t (.decb l) k := by
  rcases issueCommand_violates_or_performs (i := .decb l) (checks := decbChecks) hi h with hv | rfl
  · exact .inr hv
  · cases hd : dec32 s.decbBlock with
    | none =>
      rw [decbEffect_of_malformed (s := s.latchFor _) hd]
      exact .inr ⟨.malformed, violatedAtIssue_raise _ _ hi⟩
    | some r =>
      obtain ⟨bs, n⟩ := r
      rw [decbEffect_of_legal (s := s.latchFor _) hd]
      exact .inl ⟨rfl, rfl, rfl, rfl, Nat.le_refl 1⟩

theorem runs_startStream {s : State} {i : Instr} (hop : 2 ≤ i.opcode.toNat) :
    RunsAfterIssue s (s.latchFor i).startStream i :=
  ⟨rfl, rfl, rfl, rfl, rfl, hop⟩

theorem enc_runs_or_violated {s t : State} {l : Bool} (hi : Idle s) (h : exec (.enc l) s = .next t) :
    RunsAfterIssue s t (.enc l) ∨ ∃ k, ViolatedAtIssue s t (.enc l) k := by
  rcases issueCommand_violates_or_performs (i := .enc l) (checks := encChecks) hi h with hv | rfl
  · exact .inr hv
  · exact .inl (runs_startStream (Nat.le_refl 2))

theorem dec_runs_or_violated {s t : State} {l : Bool} (hi : Idle s) (h : exec (.dec l) s = .next t) :
    RunsAfterIssue s t (.dec l) ∨ ∃ k, ViolatedAtIssue s t (.dec l) k := by
  rcases issueCommand_violates_or_performs (i := .dec l) (checks := decChecks) hi h with hv | rfl
  · exact .inr hv
  · exact .inl (runs_startStream (Nat.le_succ 2))

/-- Settles O31, command by command: the block commands complete, the stream commands run, and any may raise. -/
theorem commandSucceedsRunsOrViolates : Obligations.CommandSucceedsRunsOrViolates := by
  unfold Obligations.CommandSucceedsRunsOrViolates
  intro i s t hi h
  cases i with
  | encb l => exact (encb_completed_or_violated hi h).imp_right .inr
  | decb l => exact (decb_completed_or_violated hi h).imp_right .inr
  | enc l => exact .inr (enc_runs_or_violated hi h)
  | dec l => exact .inr (dec_runs_or_violated hi h)

/-! ### The hook over a step (R167 to R169, R176) -/

/-- From `s` to `t` no violation is entered: the hook is not invoked, VIOL and CAUSE stay, and every command that ended has
completed. -/
def EntersNoViolation (s t : State) : Prop :=
  t.hookCalls = s.hookCalls ∧ t.viol = s.viol ∧ t.cause = s.cause ∧
    t.issued + s.completed + s.busy.toNat = s.issued + t.completed + t.busy.toNat

/-- From `s` to `t` one violation is entered: the hook is invoked once, and the one command that was issued or ran has ended
uncompleted. -/
def EntersViolation (s t : State) : Prop :=
  t.hookCalls = s.hookCalls + 1 ∧ t.viol = true ∧ t.cause ≠ none ∧ t.busy = false ∧ t.done = false ∧
    t.halt = decide (s.cfg.mode = .production) ∧ t.completed = s.completed ∧ t.issued + s.busy.toNat = s.issued + 1

/-- The two outcomes of a step with regard to violations. Neither looks at a field a host action other than reset changes,
so an outcome from a state with an action taken or a free value drawn is by definition one from the state before. -/
def ViolationOutcome (s t : State) : Prop := EntersNoViolation s t ∨ EntersViolation s t

theorem entersNoViolation_refl (s : State) : EntersNoViolation s s := ⟨rfl, rfl, rfl, rfl⟩

theorem entersViolation_latchFor_raise {s : State} (i : Instr) (k : Kind) (hi : Idle s) :
    EntersViolation s ((s.latchFor i).raise k) := by
  obtain ⟨hb, hh⟩ := hi
  refine ⟨rfl, rfl, by simp, rfl, rfl, ?_, rfl, ?_⟩
  · change (s.halt || decide (s.cfg.mode = .production)) = decide (s.cfg.mode = .production)
    rw [hh, Bool.false_or]
  · simp [State.latchFor, hb]

theorem IssueResult.violationOutcome {s t : State} {i : Instr} (h : IssueResult s i t) : ViolationOutcome s t := by
  cases h with
  | lost hb => exact .inl (entersNoViolation_refl s)
  | violated k hi => exact .inr (entersViolation_latchFor_raise i k hi)
  | completed bs r f hi hm hd hcap hr =>
    refine .inl ⟨rfl, rfl, rfl, ?_⟩
    change s.issued + 1 + s.completed + s.busy.toNat = s.issued + (s.completed + 1) + 0
    rw [hi.1, Bool.toNat_false]
    omega
  | started hi hm hl hs hd hn hop =>
    refine .inl ⟨rfl, rfl, rfl, ?_⟩
    change s.issued + 1 + s.completed + s.busy.toNat = s.issued + s.completed + 1
    rw [hi.1, Bool.toNat_false]
    omega

/-- A turn of the unit: DONE is 0 while a command runs, so a violation leaves it 0. -/
theorem violationOutcome_unitTurn {s t : State} (h : Invariant s) (ht : unitTurn s = .next t) :
    ViolationOutcome s t := by
  obtain ⟨-, -, -, -, -, -, -, -, -, -, hissued, -, hf⟩ := unitTurn_keeps ht
  rcases hf with ⟨hhook, hviol, hcause, -, hcount⟩ | ⟨hb, hhook, hviol, hcause, hbusy, hdone, hhalt, hcomp⟩
  · exact .inl ⟨hhook, hviol, hcause, by omega⟩
  · exact .inr ⟨hhook, hviol, hcause, hbusy, hdone.trans (h.running hb).notDone, hhalt, hcomp, by simp [hissued, hb]⟩

theorem entersNoViolation_hostWrite (r v : Nat) (s : State) : EntersNoViolation s (hostWrite r v s) := by
  obtain ⟨a, l, d, c, f, e⟩ := hostWrite_frame r v s
  rw [e]
  exact entersNoViolation_refl s

/-- Every step but a reset enters no violation or one. -/
theorem step_violationOutcome {s t : State} (h : Invariant s) (ht : step s = .next t)
    (hno : ∀ rest, s.inbox ≠ .reset :: rest) : ViolationOutcome s t := by
  rcases step_cases ht with ⟨-, ht⟩ | ⟨a, rest, hx, ht⟩
  · exact violationOutcome_unitTurn h ht
  · cases a with
    | wr r v =>
      dsimp only at ht
      split at ht
      · rw [drawn_eq] at ht
        exact (exec_issueResult ht).violationOutcome
      · rw [ht]
        exact .inl (entersNoViolation_hostWrite r v { s with inbox := rest })
    | rd r => exact ht ▸ .inl (entersNoViolation_refl s)
    | wait =>
      dsimp only at ht
      split at ht
      · exact violationOutcome_unitTurn (s := s.hostRead 6) (h.hostRead 6) ht
      · exact ht ▸ .inl (entersNoViolation_refl s)
    | memRd a =>
      obtain ⟨-, -, rfl⟩ := hostMemRead_cases ht
      exact .inl (entersNoViolation_refl s)
    | memWr a b =>
      obtain ⟨-, -, rfl⟩ := hostMemWrite_cases ht
      exact .inl (entersNoViolation_refl s)
    | pass =>
      dsimp only at ht
      split at ht
      · exact ht ▸ .inl (entersNoViolation_refl s)
      · exact violationOutcome_unitTurn (s := { s with inbox := rest }) (h.inbox rest) ht
    | reset => exact absurd hx (hno rest)

/-- Settles O35, by whether the host's next action is a reset. -/
theorem hookInvokedExactlyByViolations : Obligations.HookInvokedExactlyByViolations := by
  unfold Obligations.HookInvokedExactlyByViolations
  intro s t h ht
  by_cases hr : ∃ rest, s.inbox = .reset :: rest
  · obtain ⟨rest, hx⟩ := hr
    rw [step_reset hx] at ht
    cases ht
    exact .inl ⟨rfl, .inr ⟨⟨rest, hx⟩, rfl, rfl⟩⟩
  · have hno : ∀ rest, s.inbox ≠ .reset :: rest := fun rest hx => hr ⟨rest, hx⟩
    rcases step_violationOutcome h ht hno with ⟨hhook, hkept⟩ | hviol
    · exact .inl ⟨hhook, .inl ⟨hno, hkept⟩⟩
    · exact .inr hviol

end Sys2Proof.Machine

/-! The statements about reset and hazards (70_reset_and_hazards.md): concatenated texts, a host write that comes too early,
and the end of a run. -/

namespace Sys2Proof.Machine

/-! ### Concatenated texts (R198) -/

/-- The text of a multiple of 3 bytes has no pad, so the text of what follows goes on after it. -/
theorem encText_append {A : List Byte} (hA : A.length % 3 = 0) (B : List Byte) :
    encText A ++ encText B = encText (A ++ B) := by
  induction A using encText.induct with
  | case1 => rfl
  | case2 a => simp at hA
  | case3 a b => simp at hA
  | case4 a b c rest ih =>
    have hrest : rest.length % 3 = 0 := by
      simp only [List.length_cons] at hA
      omega
    rw [encText, List.append_assoc, ih hrest]
    rfl

theorem encText_ne_nil {B : List Byte} (hB : B ≠ []) : encText B ≠ [] := by
  have hpos := List.length_pos_iff.2 hB
  rw [← List.length_pos_iff, encText_length]
  omega

/-- The capacity a text needs to decode (R139): three bytes for each group of its bytes. -/
theorem encText_length_div_four (B : List Byte) : (encText B).length / 4 = (B.length + 2) / 3 := by
  rw [encText_length, Nat.mul_div_cancel_left _ (by decide)]

theorem decText_encText (B : List Byte) : decText (encText B) = some B := by
  have hroom : 3 * ((B.length + 2) / 3) ≤ (encText B).length := by
    rw [encText_length]
    omega
  rw [decText, decGroups_encText B hroom]

/-- A padded block that is not the last is malformed (R137). -/
theorem decGroups_block_padded {room n : Nat} {q : Block} {bs rest : List Byte} (hroom : 3 ≤ room)
    (hd : dec32 q = some (bs, n)) (hn : n < 3) (hrest : rest ≠ []) :
    decGroups room (blockChars q ++ rest) = ([], some .malformed) := by
  rw [decGroups_block, if_neg (Nat.not_lt.2 hroom), hd]
  exact if_pos ⟨hn, hrest⟩

/-- Characters after a text that ends in a pad make it malformed: the groups before the padded one pass. -/
theorem decGroups_padded_text_append {A rest : List Byte} {room : Nat} (hA : A.length % 3 ≠ 0) (hrest : rest ≠ [])
    (hroom : 3 * ((A.length + 2) / 3) ≤ room) : (decGroups room (encText A ++ rest)).2 = some .malformed := by
  induction A using encText.induct generalizing room with
  | case1 => exact absurd rfl hA
  | case2 a =>
    rw [encText, rawGroup_one, decGroups_block_padded (by simpa using hroom) (dec32_enc24_one _ _ _) (by decide) hrest]
  | case3 a b =>
    rw [encText, rawGroup_two, decGroups_block_padded (by simpa using hroom) (dec32_enc24_two _ _ _) (by decide) hrest]
  | case4 a b c tail ih =>
    simp only [List.length_cons] at hA hroom
    rw [encText, List.append_assoc, decGroups_block_legal (by omega) (dec32_enc24_three _) (.inl rfl)]
    exact ih (by omega) (by omega)

/-- Settles O29: without a pad between them the two texts are the text of `A ++ B`; with one, the padded block is not the
last. -/
theorem concatenationOfTwoTexts : Obligations.ConcatenationOfTwoTexts := by
  unfold Obligations.ConcatenationOfTwoTexts
  refine fun A B => ⟨fun hA => ?_, fun hA hB room hroom => ?_⟩
  · rw [encText_append hA, encText_length_div_four]
    exact ⟨decText_encText (A ++ B), fun room => decGroups_encText (A ++ B)⟩
  · refine decGroups_padded_text_append hA (encText_ne_nil hB) (Nat.le_trans ?_ hroom)
    rw [List.length_append, encText_length]
    omega

/-! ### Host writes that come too early (R31, R197) -/

theorem exec_lost {s : State} (i : Instr) (hb : s.busy = true ∨ s.halt = true) : exec i s = .next s := by
  obtain ⟨body, hexec⟩ := exec_eq_issueCommand i
  rw [hexec, issueCommand_lost _ _ _ _ body hb]

theorem hostWrite_lost {s : State} (r v : Nat) (hb : s.busy = true ∨ s.halt = true) : hostWrite r v s = s := by
  rcases hostWrite_cases r v s with h | ⟨⟨hbusy, hhalt⟩, -⟩
  · exact h
  · simp [hbusy, hhalt] at hb

/-- Settles O39: the issue of a command is lost, and so is the write of any other register. -/
theorem writeWhileBusyOrHaltedIsLost : Obligations.WriteWhileBusyOrHaltedIsLost := by
  unfold Obligations.WriteWhileBusyOrHaltedIsLost
  intro s r v rest hb hx
  by_cases hr : r = 0
  · subst hr
    rw [step_wr_ctrl hx, drawn_of_lost (s := { s with inbox := rest }) 8 v hb]
    exact exec_lost _ hb
  · rw [step_wr_reg hr hx, hostWrite_lost (s := { s with inbox := rest }) r v hb]

/-! ### The end of a run (R201) -/

/-- With BUSY and VIOL 0 no command is left uncompleted. -/
theorem Invariant.completed_eq_issued {s : State} (h : Invariant s) (hb : s.busy = false) (hv : s.viol = false) :
    s.completed = s.issued := by
  have hle := h.counted
  have hnlt : ¬ s.completed + s.busy.toNat < s.issued := fun hlt => by simpa [hv] using h.violCounted.2 hlt
  simp only [hb, Bool.toNat_false] at hle hnlt
  omega

/-- Settles O53, by whether VIOL is set. -/
theorem runEndsWellOrBadly : Obligations.RunEndsWellOrBadly := by
  unfold Obligations.RunEndsWellOrBadly
  refine fun s h => ⟨fun hover => ?_, ?_, fun hbusy => ?_, ?_⟩
  · cases hv : s.viol with
    | false => exact .inl ⟨hover, h.completed_eq_issued hover.2 hv, hv⟩
    | true => exact .inr ⟨hover, hv⟩
  · rintro ⟨⟨-, -, hgood⟩, -, hbad⟩
    exact absurd hbad (by simp [hgood])
  · have hrun : ¬ RunOver s := fun ⟨_, hidle⟩ => absurd hbusy (by simp [hidle])
    exact ⟨fun hwell => hrun hwell.1, fun hbad => hrun hbad.1⟩
  · rintro ⟨⟨-, hidle⟩, -, hv⟩ hissued
    exact ⟨hidle, (h.doneIff hv).2 ⟨hidle, hissued⟩⟩

end Sys2Proof.Machine
